-- ==== Sys2Proof/Word.lean ====
section
/-! DEFINITION. The bit widths of the block's words (R10, R42), the field modulus `P` (R5) and the type of
field elements (R11): integers that are always reduced into `[0, P)`. -/

namespace Sys2Proof

/-- One byte of an input block (R12). -/
abbrev Byte := BitVec 8

/-- The 16-bit request word `iw` (R60). -/
abbrev ReqWord := BitVec 16

/-- The contents of one 256-bit field register (R21). -/
abbrev FieldBits := BitVec 256

/-- The 384 payload wires of the host port (R42: the widest payload is `WRB`'s). -/
abbrev PayloadBits := BitVec 384

/-- The 32-bit status word (R30). -/
abbrev StatusWord := BitVec 32

/-- R5: the field modulus `2^256 - 2^32 - 977`. -/
def P : Nat := 0xFFFFFFFFFFFFFFFFFFFFFFFFFFFFFFFFFFFFFFFFFFFFFFFFFFFFFFFEFFFFFC2F

/-- R11, R81: a field element is an integer in `[0, P)`; the bound is carried by the value. -/
@[ext] structure Fq where
  val  : Nat
  isLt : val < P
deriving DecidableEq, Repr

/-- The field element 0. -/
def Fq.zero : Fq := ⟨0, by decide⟩

/-- The field element 1. -/
def Fq.one : Fq := ⟨1, by decide⟩

end Sys2Proof
end

