-- ==== Sys2Proof/Syntax.lean ====
section
/-! DEFINITION. The requests of the host port as syntax: the index spaces of R43, the raw request
`(iw, payload)` of R42, and `Instr` with one constructor per row of spec/opcode_table.json (R62). -/

namespace Sys2Proof

/-- R22: the eight field registers by name, in the order of their indices 0 to 7. -/
inductive FieldReg
  | u0 | u1 | x1 | x2 | gx1 | gx2 | x | y
deriving DecidableEq, Repr

/-- R25: the two input blocks, indices 0 and 1. -/
inductive BlockIx
  | ib0 | ib1
deriving DecidableEq, Repr

/-- R120: the source select of `MAP`, index 0 for `U0` and index 1 for `U1`. -/
inductive MapSrc
  | fromU0 | fromU1
deriving DecidableEq, Repr

/-- R42: a request as the host presents it: the request word and the payload wires.
A request whose payload is narrower than 384 bits uses the low wires (log entry 3). -/
structure Request where
  iw      : ReqWord
  payload : PayloadBits
deriving DecidableEq, Repr

/-- R62: the eight requests, with the operands R100 to R135 give them.  `WRF` takes any field register
here; that `X` and `Y` may not be its operand is the check of WellFormed (R66). -/
inductive Instr
  | wrb (b : BlockIx) (payload : PayloadBits)
  | wrf (r : FieldReg) (payload : FieldBits)
  | rdf (r : FieldReg)
  | rds
  | dec (b : BlockIx)
  | h2f
  | map (src : MapSrc)
  | sel
deriving DecidableEq, Repr

end Sys2Proof
end

