-- ==== Sys2Proof/WellFormed.lean ====
section
/-! DEFINITION. Which terms of `Instr` a request word can stand for.  The index types already hold every
index to its opcode's range except one: `WRF` may not name the result registers (R22, R66). -/

namespace Sys2Proof

/-- R22: the field registers the host may write with `WRF`: `U0` to `GX2`, not `X` and not `Y`. -/
def FieldReg.hostWritable : FieldReg → Bool
  | .u0 => true
  | .u1 => true
  | .x1 => true
  | .x2 => true
  | .gx1 => true
  | .gx2 => true
  | .x => false
  | .y => false

/-- R66: `WRF 6` and `WRF 7` are no legal requests; every other term is one. -/
def Instr.wellFormed : Instr → Bool
  | .wrb _ _ => true
  | .wrf r _ => r.hostWritable
  | .rdf _ => true
  | .rds => true
  | .dec _ => true
  | .h2f => true
  | .map _ => true
  | .sel => true

/-- The instruction is one a legal request word stands for. -/
abbrev Instr.WellFormed (i : Instr) : Prop := i.wellFormed = true

end Sys2Proof
end

