-- ==== Sys2Proof/Decode.lean ====
section
/-! DEFINITION. The decoder of request words (R60, R61, R65, R66), total on all 65,536 words and all payloads and
refusing by name, then the encoder written from the same table (R62), and the opcode table itself (R64). -/

namespace Sys2Proof

/-- Why a request word is illegal (R66); all three are the one fault `ILLEGAL_REQ` (R151). -/
inductive Illegal
  /-- `iw[7:4]` is not 0. -/
  | reservedNibble
  /-- `op` is none of the eight opcodes. -/
  | unassignedOp
  /-- `idx` is outside the range its opcode allows. -/
  | indexOutOfRange
deriving DecidableEq, Repr

/-- R60: the opcode field, bits 15:8. -/
def opField (iw : ReqWord) : BitVec 8 := iw.extractLsb' 8 8

/-- R60: the reserved field, bits 7:4. -/
def zeroField (iw : ReqWord) : BitVec 4 := iw.extractLsb' 4 4

/-- R60: the index operand, bits 3:0. -/
def idxField (iw : ReqWord) : BitVec 4 := iw.extractLsb' 0 4

/-- R22: the index of a field register. -/
def FieldReg.idx : FieldReg → BitVec 4
  | .u0 => 0#4
  | .u1 => 1#4
  | .x1 => 2#4
  | .x2 => 3#4
  | .gx1 => 4#4
  | .gx2 => 5#4
  | .x => 6#4
  | .y => 7#4

/-- R22: the field register an index names; indices above 7 name none. -/
def FieldReg.ofIdx (idx : BitVec 4) : Option FieldReg :=
  if idx = 0#4 then some .u0
  else if idx = 1#4 then some .u1
  else if idx = 2#4 then some .x1
  else if idx = 3#4 then some .x2
  else if idx = 4#4 then some .gx1
  else if idx = 5#4 then some .gx2
  else if idx = 6#4 then some .x
  else if idx = 7#4 then some .y
  else none

/-- R43: the index of an input block. -/
def BlockIx.idx : BlockIx → BitVec 4
  | .ib0 => 0#4
  | .ib1 => 1#4

/-- R43: the input block an index names; indices above 1 name none. -/
def BlockIx.ofIdx (idx : BitVec 4) : Option BlockIx :=
  if idx = 0#4 then some .ib0 else if idx = 1#4 then some .ib1 else none

/-- R43: the index of a `MAP` source. -/
def MapSrc.idx : MapSrc → BitVec 4
  | .fromU0 => 0#4
  | .fromU1 => 1#4

/-- R43: the `MAP` source an index names; indices above 1 name none. -/
def MapSrc.ofIdx (idx : BitVec 4) : Option MapSrc :=
  if idx = 0#4 then some .fromU0 else if idx = 1#4 then some .fromU1 else none

/-- An operand that its index space may not have: absent means the index is out of range (R66). -/
def operand {α : Type} (found : Option α) (make : α → Instr) : Except Illegal Instr :=
  match found with
  | some a => .ok (make a)
  | none => .error .indexOutOfRange

/-- R43: an opcode that names nothing takes index 0 only. -/
def noOperand (idx : BitVec 4) (i : Instr) : Except Illegal Instr :=
  if idx = 0#4 then .ok i else .error .indexOutOfRange

/-- R65, R101: the register operand of `WRF`, indices 0 to 5 only. -/
def FieldReg.ofWritableIdx (idx : BitVec 4) : Option FieldReg :=
  if idx.toNat ≤ 5 then FieldReg.ofIdx idx else none

/-- R65: `Decode`, in the order of its pseudocode, the last arm refusing. `WRF` takes the low 256 payload
wires (R44). -/
def decodeWord (iw : ReqWord) (payload : PayloadBits) : Except Illegal Instr :=
  if zeroField iw ≠ 0#4 then .error .reservedNibble
  else if opField iw = 0x01#8 then operand (BlockIx.ofIdx (idxField iw)) (.wrb · payload)
  else if opField iw = 0x02#8 then
    operand (FieldReg.ofWritableIdx (idxField iw)) (.wrf · (payload.extractLsb' 0 256))
  else if opField iw = 0x03#8 then operand (FieldReg.ofIdx (idxField iw)) .rdf
  else if opField iw = 0x04#8 then noOperand (idxField iw) .rds
  else if opField iw = 0x10#8 then operand (BlockIx.ofIdx (idxField iw)) .dec
  else if opField iw = 0x11#8 then noOperand (idxField iw) .h2f
  else if opField iw = 0x12#8 then operand (MapSrc.ofIdx (idxField iw)) .map
  else if opField iw = 0x13#8 then noOperand (idxField iw) .sel
  else .error .unassignedOp

/-- The instruction a request of the host stands for, or why it is illegal. -/
def decode (r : Request) : Except Illegal Instr := decodeWord r.iw r.payload

/-- R62: the opcode of each request. -/
def Instr.op : Instr → BitVec 8
  | .wrb _ _ => 0x01#8
  | .wrf _ _ => 0x02#8
  | .rdf _ => 0x03#8
  | .rds => 0x04#8
  | .dec _ => 0x10#8
  | .h2f => 0x11#8
  | .map _ => 0x12#8
  | .sel => 0x13#8

/-- R62: the index operand of each request, 0 where it takes none. -/
def Instr.idx : Instr → BitVec 4
  | .wrb b _ => b.idx
  | .wrf r _ => r.idx
  | .rdf r => r.idx
  | .rds => 0#4
  | .dec b => b.idx
  | .h2f => 0#4
  | .map s => s.idx
  | .sel => 0#4

/-- R42: the payload wires of each request, 0 above the width its opcode has. -/
def Instr.payload : Instr → PayloadBits
  | .wrb _ p => p
  | .wrf _ p => p.setWidth 384
  | .rdf _ => 0#384
  | .rds => 0#384
  | .dec _ => 0#384
  | .h2f => 0#384
  | .map _ => 0#384
  | .sel => 0#384

/-- R60: the request word, the concatenation of opcode, zero nibble and index. -/
def Instr.word (i : Instr) : ReqWord := (i.op ++ 0#4 ++ i.idx).cast (by decide)

/-- The request that stands for an instruction (R60, R62). -/
def encode (i : Instr) : Request := ⟨i.word, i.payload⟩

/-- R42, R67: the width of a request's payload, a function of its opcode alone. -/
def Instr.payloadWidth : Instr → Nat
  | .wrb _ _ => 384
  | .wrf _ _ => 256
  | .rdf _ => 0
  | .rds => 0
  | .dec _ => 0
  | .h2f => 0
  | .map _ => 0
  | .sel => 0

/-- R42: the width of the response data of a request that answers `ok = 1`. -/
def Instr.responseWidth : Instr → Nat
  | .wrb _ _ => 0
  | .wrf _ _ => 0
  | .rdf _ => 257
  | .rds => 32
  | .dec _ => 0
  | .h2f => 0
  | .map _ => 0
  | .sel => 0

/-- One row of spec/opcode_table.json (R64). -/
structure OpcodeRow where
  mnemonic     : String
  pattern      : ReqWord
  mask         : ReqWord
  legalIdx     : List Nat
  payloadBits  : Nat
  responseBits : Nat
deriving DecidableEq, Repr

/-- R64: the eight rows, with the payload and response widths of R42. -/
def opcodeTable : List OpcodeRow :=
  [⟨"WRB", 0x0100#16, 0xFFFE#16, [0, 1], 384, 0⟩,
   ⟨"WRF", 0x0200#16, 0xFFF8#16, [0, 1, 2, 3, 4, 5], 256, 0⟩,
   ⟨"RDF", 0x0300#16, 0xFFF8#16, [0, 1, 2, 3, 4, 5, 6, 7], 0, 257⟩,
   ⟨"RDS", 0x0400#16, 0xFFFF#16, [0], 0, 32⟩,
   ⟨"DEC", 0x1000#16, 0xFFFE#16, [0, 1], 0, 0⟩,
   ⟨"H2F", 0x1100#16, 0xFFFF#16, [0], 0, 0⟩,
   ⟨"MAP", 0x1200#16, 0xFFFE#16, [0, 1], 0, 0⟩,
   ⟨"SEL", 0x1300#16, 0xFFFF#16, [0], 0, 0⟩]

/-- R64: a word selects a row when it matches under the mask and its index is in the row's list. -/
def OpcodeRow.selects (row : OpcodeRow) (iw : ReqWord) : Bool :=
  (iw &&& row.mask == row.pattern) && row.legalIdx.contains (idxField iw).toNat

/-- R62: the mnemonic of each request. -/
def Instr.mnemonic : Instr → String
  | .wrb _ _ => "WRB"
  | .wrf _ _ => "WRF"
  | .rdf _ => "RDF"
  | .rds => "RDS"
  | .dec _ => "DEC"
  | .h2f => "H2F"
  | .map _ => "MAP"
  | .sel => "SEL"

/-- The request whose bits are `w`, of which only the low `nbits` count: bits 15:0 are the request word and the
bits that count on from bit 16 are the payload. -/
def requestOfBits (nbits w : Nat) : Request :=
  ⟨BitVec.ofNat 16 (w % 2 ^ nbits), BitVec.ofNat 384 (w % 2 ^ nbits / 2 ^ 16)⟩

/-- The instruction the decoder reads from the bits `w` of an instruction of `nbits` bits. -/
def decodeTableWord (nbits w : Nat) : Option Instr :=
  match decode (requestOfBits nbits w) with
  | .ok i => some i
  | .error _ => none

end Sys2Proof
end

