-- ==== Sys2Proof/Machine/Field.lean ====
section
/-! DEFINITION. The field arithmetic unit (R80 to R92): each primitive as the integer formula of its rule, the byte
conversions of R13, and what a square is (R93). -/

namespace Sys2Proof.Machine

/-- `n mod P` as a field element (R11). -/
def reduce (n : Nat) : Fq := ⟨n % P, Nat.mod_lt n (by decide)⟩

/-- R82. -/
def fadd (a b : Fq) : Fq := reduce (a.val + b.val)

/-- R85. -/
def fneg (a : Fq) : Fq := reduce (P - a.val)

/-- R83: `a - b` when `a >= b`, else `a - b + P`. -/
def fsub (a b : Fq) : Fq := reduce (if b.val ≤ a.val then a.val - b.val else a.val + P - b.val)

/-- R84. -/
def fmul (a b : Fq) : Fq := reduce (a.val * b.val)

/-- R84: `fsqr a = fmul a a`. -/
def fsqr (a : Fq) : Fq := fmul a a

/-- R87: equality of the two reduced integers. -/
def feq (a b : Fq) : Bool := a.val == b.val

/-- `feq` decides equality of field elements (R87). -/
theorem feq_iff (a b : Fq) : feq a b = true ↔ a = b := by
  simp [feq, Fq.ext_iff]

/-- A field element that `feq` tells from 0 is not 0: the precondition of `finv` at its guarded call (R123). -/
theorem ne_zero_of_not_feq {a : Fq} (h : ¬ feq a Fq.zero = true) : a ≠ Fq.zero :=
  fun h0 => h ((feq_iff a Fq.zero).mpr h0)

/-- `b ^ e mod P` by repeated squaring, for exponents below `2 ^ fuel`. -/
def powMod : (fuel : Nat) → (b e : Nat) → Nat
  | 0, _, _ => 1
  | fuel + 1, b, e =>
    let h := powMod fuel (b * b % P) (e / 2)
    if e % 2 = 1 then b * h % P else h

/-- `a ^ e mod P` for exponents below `2 ^ 256`. -/
def fpow (a : Fq) (e : Nat) : Fq := reduce (powMod 256 a.val e)

/-- R86: the inverse of a nonzero field element, as `a ^ (P - 2) mod P` (G3).  It takes the proof that its argument is
not 0: `finv 0` has no value (U2). -/
def finv (a : Fq) (_nonzero : a ≠ Fq.zero) : Fq := fpow a (P - 2)

/-- R13: `OS2IP`, the big-endian integer of a byte string. -/
def os2ip (s : List Byte) : Nat := s.foldl (fun n b => n * 256 + b.toNat) 0

/-- R13: `LE32`, byte `i` is bits `8i+7` down to `8i`. -/
def le32 (v : Nat) : List Byte := (List.range 32).map fun i => BitVec.ofNat 8 (v / 256 ^ i)

/-- R13: `BE32`, the byte string with `OS2IP (BE32 v) = v` for `v < 2^256`. -/
def be32 (v : Nat) : List Byte := (le32 v).reverse

/-- R88: `from_be32 s = OS2IP s mod P`. -/
def fromBe32 (s : List Byte) : Fq := reduce (os2ip s)

/-- R89. -/
def toLe32 (a : Fq) : List Byte := le32 a.val

/-- R90. -/
def toBe32 (a : Fq) : List Byte := be32 a.val

/-- R90: `from_le32 s = OS2IP (reverse s) mod P`. -/
def fromLe32 (s : List Byte) : Fq := reduce (os2ip s.reverse)

/-- R92: the lowest bit of the lowest byte of the little-endian encoding. -/
def lsb (a : Fq) : BitVec 1 := ((toLe32 a).headD 0#8 &&& 1#8).extractLsb' 0 1

/-- R93: `a` is a square when some field element squares to it. -/
def IsSquareFq (a : Fq) : Prop := ∃ r : Fq, fsqr r = a

end Sys2Proof.Machine
end

