-- ==== Sys2Proof/Config.lean ====
section
/-! DEFINITION. The configuration of one SWUMAP instance (R6, R9, decisions D17 and D22): the field constants `Z`, `A`, `B`
and the root unit, fixed for a run; and the model's free values, opaque constants with no body. -/

namespace Sys2Proof

/-- R136: which root unit an instance is built with, as plain data.  `external k` is a unit of which nothing is
known; the other two are the reference unit of R138 and a unit that differs from another one in one answer, which is
enough to write down every root unit of spec/95_test_vectors.md. -/
inductive RootUnit
  /-- `ROOT_ref` of R138, for tests. -/
  | reference
  /-- Any function at all: the answers are the free value `Config.externalRoot k`. -/
  | external (k : Nat)
  /-- `base`, except that the answer for `g` is `answer`. -/
  | patched (g : Fq) (answer : Option Fq) (base : RootUnit)
deriving DecidableEq, Repr

/-- The open parameters of the model (92_eei_decisions.md: "`ROOT` (D17); `Z`, `A`, `B` with defaults (D22)").
The three requirements of R6 are carried as proofs: constants that break one are not a SWUMAP and cannot be written
down as a configuration (U6); `finv A` takes the second one (R86, R122). -/
structure Config where
  Z            : Fq
  A            : Fq
  B            : Fq
  Z_not_square : ¬ Machine.IsSquareFq Z
  A_ne_zero    : A ≠ Fq.zero
  B_ne_zero    : B ≠ Fq.zero
  root         : RootUnit
deriving DecidableEq, Repr

/-- FREE VALUE (U3, U4; log entry 2): the answers of an external root unit.  One function of its argument for each
unit `k`, the same for every query of a run (R136, R139); nothing else is known of it. -/
opaque Config.externalRoot : Nat → Fq → Option Fq

/-- FREE VALUE (U1; log entry 4): the contents of a field register whose valid bit is 0, one draw for each number.
Used for the `value` field an `RDF` returns with `v = 0` (R102), and for what a register holds after the fault
entry invalidated it (R160). -/
opaque Config.unspecified : Nat → FieldBits

end Sys2Proof
end

