-- ==== Sys2Proof/Machine/Constants.lean ====
section
/-! DEFINITION. The default constants of R6 and the root unit of R136 to R138. -/

namespace Sys2Proof.Machine

/-- R6: the requirements on the constants of an instance.  `Config` carries the proofs of all three, so that there is no
configuration that breaks one (U6). -/
def LawfulConfig (c : Config) : Prop := ¬ IsSquareFq c.Z ∧ c.A ≠ Fq.zero ∧ c.B ≠ Fq.zero

/-- R6: `Z = P - 11`. PRESUMED (G1: the spec takes it from RFC 9380). -/
def defaultZ : Fq := ⟨P - 11, by decide⟩

/-- R6: the default `A`. PRESUMED (G1). -/
def defaultA : Fq := ⟨0x3F8731ABDD661ADCA08A5558F0F5D272E953D363CB6F0E5D405447C01A444533, by decide⟩

/-- R6: `B = 1771`. PRESUMED (G1). -/
def defaultB : Fq := ⟨1771, by decide⟩

/-- R6: the default `Z` is not a square: the Jacobi symbol of -11 over `P` is -1. -/
theorem defaultZ_not_square : ¬ IsSquareFq defaultZ := by
  rintro ⟨r, hr⟩
  have hsymbol : jacobiSym (-11) P = -1 := by norm_num [P]
  refine ZMod.nonsquare_of_jacobiSym_eq_neg_one hsymbol ⟨(r.val : ZMod P), ?_⟩
  have hval := congrArg (fun a : Fq => (a.val : ZMod P)) hr
  simp only [fsqr, fmul, reduce, defaultZ, ZMod.natCast_mod, Nat.cast_mul] at hval
  rw [hval, Nat.cast_sub (by decide)]
  simp

/-- R6, R9: the default constants with a given root unit. -/
def defaultConfig (root : RootUnit) : Config :=
  ⟨defaultZ, defaultA, defaultB, defaultZ_not_square, by decide, by decide, root⟩

/-- R138: `ROOT_ref g = let r = g^((P+1)/4) in if fsqr r = g then some r else none`. -/
def rootRef (g : Fq) : Option Fq :=
  let r := fpow g ((P + 1) / 4)
  if feq (fsqr r) g then some r else none

/-- R9, R136: the function `ROOT` that a root unit is. -/
def rootFn : RootUnit → Fq → Option Fq
  | .reference, g => rootRef g
  | .external k, g => Config.externalRoot k g
  | .patched g' answer base, g => if feq g g' then answer else rootFn base g

/-- R137: the named law of an honest root unit. -/
def RootHonest (root : Fq → Option Fq) : Prop :=
  ∀ g : Fq, (IsSquareFq g → ∃ r, root g = some r ∧ fsqr r = g) ∧ (¬ IsSquareFq g → root g = none)

end Sys2Proof.Machine
end

