-- ==== Sys2Proof/Machine/State.lean ====
section
/-! DEFINITION. The state of one SWUMAP instance as plain data: the architectural state of R20, the instance's
configuration, the host port (R40 to R42) and the model's counter of free values; the outcomes' reason types; and the
state right after reset (R35, R176). -/

namespace Sys2Proof.Machine

/-- One value for each field register, under the register's name (R22): used for the contents `F` and for the
valid bits `VF`. -/
structure FieldFile (α : Type) where
  u0  : α
  u1  : α
  x1  : α
  x2  : α
  gx1 : α
  gx2 : α
  x   : α
  y   : α
deriving DecidableEq, Repr

/-- One value for each input block (R25): used for the contents `IB` and for the valid bits `VB`. -/
structure BlockFile (α : Type) where
  ib0 : α
  ib1 : α
deriving DecidableEq, Repr

/-- R25: a string of exactly 48 bytes; index 0 is the first byte and the most significant one. -/
abbrev Block := Vector Byte 48

/-- R29, R150: the five causes of a fault of the block. -/
inductive FaultCode
  /-- Code 1: a word that decodes to no request (R151). -/
  | illegalReq
  /-- Code 2: a `WRF` payload outside `[0, P)` (R152). -/
  | range
  /-- Code 3: a source whose valid bit is 0 (R153). -/
  | srcInvalid
  /-- Code 4: both root queries answered, or neither (R154). -/
  | rootXor
  /-- Code 5: the selected root does not square to its preimage (R155). -/
  | integrity
deriving DecidableEq, Repr

/-- R42: the data of a response: none, the 257 bits of `RDF`, or the 32 bits of `RDS`. -/
inductive ResponseData
  | none
  | register (bits : BitVec 257)
  | status (word : StatusWord)
deriving DecidableEq, Repr

/-- R42: a response, the pair `(ok, data)`. -/
structure Response where
  ok   : Bool
  data : ResponseData
deriving DecidableEq, Repr

/-- R18, R47: what the host can do to the block: issue a request, or assert reset between requests (R175). -/
inductive HostMove
  | request (r : Request)
  | reset
deriving DecidableEq, Repr

/-- The state.  The first seven fields are the architectural state of R20; `cfg` is the configuration of the instance
(R6, R9), which no step writes; `pending` and `response` are the two sides of the host port (R40); `draws` counts the
free values drawn so far (log entry 4). -/
structure State where
  /-- Contents of the field registers (R21). -/
  f        : FieldFile FieldBits
  /-- Valid bits of the field registers (R24). -/
  vf       : FieldFile Bool
  /-- Contents of the input blocks (R25). -/
  ib       : BlockFile Block
  /-- Valid bits of the input blocks (R24). -/
  vb       : BlockFile Bool
  /-- The "is point at infinity" flag (R27). -/
  inf      : Bool
  /-- The fault flag: false is `READY`, true is `FAULTED` (R28). -/
  flt      : Bool
  /-- The cause code of the first fault (R29). -/
  cause    : BitVec 4
  /-- The configuration: `Z`, `A`, `B` and the root unit (R6, R9). -/
  cfg      : Config
  /-- MODEL: the number of the next free value. -/
  draws    : Nat
  /-- MODEL: the host's moves that the block has not taken yet, oldest first. -/
  pending  : List HostMove
  /-- The response to the last request, none before the first one after a reset (R42). -/
  response : Option Response
deriving DecidableEq, Repr

/-- Reasons for the machine to stop with a fault.  There are none: every fault of the spec is a next state (R160),
and the spec assumes that every request is answered (R187), so no step of this model stops. -/
inductive Fault
deriving DecidableEq, Repr

/-- Reasons for the machine to refuse an instruction. -/
inductive Refusal
  /-- Raised by an arm of `exec` for an instruction without a meaning; no arm does.  Safe. -/
  | notModelled (mnemonic : String)
deriving DecidableEq, Repr

/-- The same value in every field register. -/
def FieldFile.all {α : Type} (a : α) : FieldFile α := ⟨a, a, a, a, a, a, a, a⟩

/-- R35, R176: the state right after reset.  `FLT`, `CAUSE`, `INF` and all valid bits are 0.  The contents of registers
and blocks, which the spec leaves unspecified, are 0 (DESIGN CHOICE, log entry 1); the root unit is one of which nothing
is known (log entry 2); nothing is pending and nothing has been answered. -/
def State.reset : State where
  f        := FieldFile.all 0#256
  vf       := FieldFile.all false
  ib       := ⟨Vector.replicate 48 0#8, Vector.replicate 48 0#8⟩
  vb       := ⟨false, false⟩
  inf      := false
  flt      := false
  cause    := 0#4
  cfg      := defaultConfig (.external 0)
  draws    := 0
  pending  := []
  response := none

end Sys2Proof.Machine
end

