-- ==== Sys2Proof/Machine/Ops.lean ====
section
/-! DEFINITION. The named operations over the state: register and block access (R14, R24), responses (R42), the fault
entry (R160) and the return from it, which is reset (R163, R176), and the host's moves (R40, R175). -/

namespace Sys2Proof.Machine

/-- The value a register file holds for a register. -/
def FieldFile.get {α : Type} (file : FieldFile α) : FieldReg → α
  | .u0 => file.u0
  | .u1 => file.u1
  | .x1 => file.x1
  | .x2 => file.x2
  | .gx1 => file.gx1
  | .gx2 => file.gx2
  | .x => file.x
  | .y => file.y

/-- The file with one register's value replaced. -/
def FieldFile.set {α : Type} (file : FieldFile α) (r : FieldReg) (a : α) : FieldFile α :=
  match r with
  | .u0 => { file with u0 := a }
  | .u1 => { file with u1 := a }
  | .x1 => { file with x1 := a }
  | .x2 => { file with x2 := a }
  | .gx1 => { file with gx1 := a }
  | .gx2 => { file with gx2 := a }
  | .x => { file with x := a }
  | .y => { file with y := a }

/-- The value a block file holds for a block. -/
def BlockFile.get {α : Type} (file : BlockFile α) : BlockIx → α
  | .ib0 => file.ib0
  | .ib1 => file.ib1

/-- The file with one block's value replaced. -/
def BlockFile.set {α : Type} (file : BlockFile α) (b : BlockIx) (a : α) : BlockFile α :=
  match b with
  | .ib0 => { file with ib0 := a }
  | .ib1 => { file with ib1 := a }

/-- R14: `F[r] <- bits`, which sets the valid bit. -/
def State.writeBits (s : State) (r : FieldReg) (bits : FieldBits) : State :=
  { s with f := s.f.set r bits, vf := s.vf.set r true }

/-- R14, R21: `F[r] <- v` for a field element: the register holds the integer. -/
def State.writeReg (s : State) (r : FieldReg) (v : Fq) : State :=
  s.writeBits r (BitVec.ofNat 256 v.val)

/-- R14: `IB[b] <- block`, which sets the valid bit. -/
def State.writeBlock (s : State) (b : BlockIx) (block : Block) : State :=
  { s with ib := s.ib.set b block, vb := s.vb.set b true }

/-- R27: `INF <- 0`, which `MAP` and `H2F` do. -/
def State.clearInf (s : State) : State := { s with inf := false }

/-- R24: the field element a register holds, if its valid bit is 1.  A valid register holds a value below `P` in
every reachable state (R21), so the reduction changes nothing there. -/
def State.source (s : State) (r : FieldReg) : Option Fq :=
  if s.vf.get r then some (reduce (s.f.get r).toNat) else none

/-- R24: the bytes a block holds, if its valid bit is 1. -/
def State.sourceBlock (s : State) (b : BlockIx) : Option Block :=
  if s.vb.get b then some (s.ib.get b) else none

/-- R42: the answer to the request in hand. -/
def State.respond (s : State) (ok : Bool) (data : ResponseData) : State :=
  { s with response := some ⟨ok, data⟩ }

/-- R42: `ok = 1` without data. -/
def State.respondOk (s : State) : State := s.respond true .none

/-- R163: a refused request: `ok = 0`, no data, nothing else changes. -/
def State.refuse (s : State) : State := s.respond false .none

/-- R150: the cause codes. -/
def FaultCode.code : FaultCode → BitVec 4
  | .illegalReq => 1#4
  | .range => 2#4
  | .srcInvalid => 3#4
  | .rootXor => 4#4
  | .integrity => 5#4

/-- R160: one destination becomes invalid; what it holds from then on is a free value (U1). -/
def State.invalidate (s : State) (r : FieldReg) : State :=
  { s with
    vf := s.vf.set r false
    f := s.f.set r (Config.unspecified s.draws)
    draws := s.draws + 1 }

/-- R160: every destination becomes invalid, in turn. -/
def State.invalidateAll (s : State) (dests : List FieldReg) : State := dests.foldl State.invalidate s

/-- R160: `FaultEntry`, taking a fault of the block: the destinations become invalid, `FLT` is set, `CAUSE` records
the code, and the answer is `ok = 0` without data. -/
def State.faultEntry (s : State) (c : FaultCode) (dests : List FieldReg) : State :=
  { s.invalidateAll dests with
    flt := true
    cause := c.code
    response := some ⟨false, .none⟩ }

/-- R163: a request other than the two reads runs in state `READY` only; in state `FAULTED` it is refused. -/
def State.ifReady (s : State) (run : State → State) : State :=
  if s.flt then s.refuse else run s

/-- R151, R163: an illegal request word, which has no destinations. -/
def State.illegalRequest (s : State) : State :=
  s.ifReady fun t => t.faultEntry .illegalReq []

/-- R175, R176: the host asserts reset; the only way out of `FAULTED` (R163).  Every piece of architectural state takes
its reset value; the configuration is not state (R31) and the host's further moves are the host's. -/
def State.resetMove (s : State) : State :=
  { State.reset with cfg := s.cfg, draws := s.draws, pending := s.pending }

/-- R40: the host's next move and the state in which the block has taken it. -/
def State.takeMove (s : State) : Option (HostMove × State) :=
  match s.pending with
  | [] => none
  | m :: rest => some (m, { s with pending := rest })

/-- The host presents a request as its next move. -/
def State.present (s : State) (r : Request) : State :=
  { s with pending := .request r :: s.pending }

end Sys2Proof.Machine
end

