-- ==== Sys2Proof/Machine/Operands.lean ====
section
/-! DEFINITION. The operand forms: which registers a request's operand stands for (R22), how a payload is read
(R44, R100), and the decoding of a block (R110). -/

namespace Sys2Proof.Machine

/-- R22: the registers that are no operand of `WRF`: the results `X` and `Y`. -/
def notHostWritable : FieldReg → Bool
  | .u0 => false
  | .u1 => false
  | .x1 => false
  | .x2 => false
  | .gx1 => false
  | .gx2 => false
  | .x => true
  | .y => true

/-- R112: the destination of `DEC b` is the field register of the same index. -/
def decDest : BlockIx → FieldReg
  | .ib0 => .u0
  | .ib1 => .u1

/-- R120: the source of `MAP s`. -/
def mapSource : MapSrc → FieldReg
  | .fromU0 => .u0
  | .fromU1 => .u1

/-- R161: the destinations of `H2F`. -/
def h2fDests : List FieldReg := [.u0, .u1, .x, .y]

/-- R161: the destinations of `MAP`. -/
def mapDests : List FieldReg := [.x1, .x2, .gx1, .gx2, .x, .y]

/-- R161: the destinations of `SEL`. -/
def selDests : List FieldReg := [.x, .y]

/-- R44, R100: byte `k` of the block a `WRB` payload carries is `payload[383-8k : 376-8k]`. -/
def blockOfPayload (payload : PayloadBits) : Block :=
  Vector.ofFn fun k : Fin 48 => payload.extractLsb' (376 - 8 * k.val) 8

/-- R8: the weight of the high part, `2^128`. -/
def decodeWeight : Fq := ⟨0x100000000000000000000000000000000, by decide⟩

/-- R110: `Decode48`: the first 32 bytes and the last 16 bytes as two field elements, recombined with the
weight `2^128` (90_conflicts.md C1). -/
def decode48 (s : Block) : Fq :=
  let hibuf := s.toList.take 32
  let lobuf := List.replicate 16 0#8 ++ s.toList.drop 32
  let hi := fromBe32 hibuf
  let lo := fromBe32 lobuf
  fadd (fmul hi decodeWeight) lo

/-- R102: the 257 bits of an `RDF` response, the valid bit above the integer. -/
def readout (v : Bool) (value : FieldBits) : BitVec 257 := BitVec.ofBool v ++ value

end Sys2Proof.Machine
end

