-- ==== Sys2Proof/Machine/Flags.lean ====
section
/-! DEFINITION. The flags: the status word as a view of them (R30, R103) and the sign fixup (R127). -/

namespace Sys2Proof.Machine

/-- R30: the valid bits of the field registers, bit `i` that of `F[i]`. -/
def vfBits (vf : FieldFile Bool) : BitVec 8 :=
  BitVec.ofBool vf.y ++ BitVec.ofBool vf.x ++ BitVec.ofBool vf.gx2 ++ BitVec.ofBool vf.gx1 ++
    BitVec.ofBool vf.x2 ++ BitVec.ofBool vf.x1 ++ BitVec.ofBool vf.u1 ++ BitVec.ofBool vf.u0

/-- R30: the valid bits of the input blocks, bit `b` that of `IB[b]`. -/
def vbBits (vb : BlockFile Bool) : BitVec 2 := BitVec.ofBool vb.ib1 ++ BitVec.ofBool vb.ib0

/-- R103: the status word, from bit 31 down: 6 zeros, `VB`, `VF`, 7 zeros, `INF`, `CAUSE`, 3 zeros, `FLT`. -/
def statusWord (s : State) : StatusWord :=
  0#6 ++ vbBits s.vb ++ vfBits s.vf ++ 0#7 ++ BitVec.ofBool s.inf ++ s.cause ++ 0#3 ++ BitVec.ofBool s.flt

/-- R127: the sign fixup: `y` is negated when its parity differs from that of `u`. -/
def signFixup (u y : Fq) : Fq := if lsb u = lsb y then y else fneg y

end Sys2Proof.Machine
end

