-- ==== Sys2Proof/Machine/ByteDecoder.lean ====
section
/-! DEFINITION. The meanings of the Byte Decoder's requests: `DEC` and `H2F` (R112, R113). -/

namespace Sys2Proof.Machine

/-- R112: `DEC b` decodes one input block into `U0` or `U1`. -/
def execDec (b : BlockIx) (s : State) : Host.Outcome State Fault Refusal :=
  .next (s.ifReady fun s =>
    match s.sourceBlock b with
    | none => s.faultEntry .srcInvalid [decDest b]
    | some block => (s.writeReg (decDest b) (decode48 block)).respondOk)

/-- R113: the two decoded field elements, in `U0`, `U1` and packed as the pair `(X, Y)`, with `INF` 0. -/
def writePacked (u0 u1 : Fq) (s : State) : State :=
  ((((s.writeReg .u0 u0).writeReg .u1 u1).writeReg .x u0).writeReg .y u1).clearInf

/-- R113: `H2F` decodes both input blocks and packs the pair; it maps nothing (R115). -/
def execH2f (s : State) : Host.Outcome State Fault Refusal :=
  .next (s.ifReady fun s =>
    match s.sourceBlock .ib0, s.sourceBlock .ib1 with
    | some b0, some b1 => (writePacked (decode48 b0) (decode48 b1) s).respondOk
    | _, _ => s.faultEntry .srcInvalid h2fDests)

end Sys2Proof.Machine
end

