-- ==== Sys2Proof/Machine/RootSelector.lean ====
section
/-! DEFINITION. The Root Selector: `SelectXY` (R140 to R144) and the meaning of `SEL` (R135). -/

namespace Sys2Proof.Machine

/-- R143: the verification of the selected root `y` against the preimage `gsel` of the selected candidate. -/
def verifyRoot (x y gsel : Fq) : Except FaultCode (Fq × Fq) :=
  if feq (fsqr y) gsel then .ok (x, y) else .error .integrity

/-- R140: `SelectXY`.  Both candidates are put to the root unit; exactly one must answer, and its answer is
verified (R141, R142, R143). -/
def selectXY (root : Fq → Option Fq) (x1 x2 gx1 gx2 : Fq) : Except FaultCode (Fq × Fq) :=
  match root gx1, root gx2 with
  | some a, none => verifyRoot x1 a gx1
  | none, some b => verifyRoot x2 b gx2
  | some _, some _ => .error .rootXor
  | none, none => .error .rootXor

/-- R135: `SEL` on the four candidate registers; `INF` is not written and no sign is fixed. -/
def execSel (s : State) : Host.Outcome State Fault Refusal :=
  .next (s.ifReady fun s =>
    match s.source .x1, s.source .x2, s.source .gx1, s.source .gx2 with
    | some x1, some x2, some gx1, some gx2 =>
      match selectXY (rootFn s.cfg.root) x1 x2 gx1 gx2 with
      | .ok (x, y) => ((s.writeReg .x x).writeReg .y y).respondOk
      | .error c => s.faultEntry c selDests
    | _, _, _, _ => s.faultEntry .srcInvalid selDests)

end Sys2Proof.Machine
end

