-- ==== Sys2Proof/Machine/CurveMapper.lean ====
section
/-! DEFINITION. The Curve Mapper: the eight steps of R120 (R121 to R128) and the meaning of `MAP`. -/

namespace Sys2Proof.Machine

/-- R121: `g(x) = x³ + A·x + B`, the right-hand side of the curve E'. -/
def curveRhs (c : Config) (x : Fq) : Fq := fadd (fadd (fmul (fsqr x) x) (fmul c.A x)) c.B

/-- R122: `ZZ = Z²`. -/
def constZZ (c : Config) : Fq := fmul c.Z c.Z

/-- R122: `NBA = -B/A`. -/
def constNBA (c : Config) : Fq := fmul (fneg c.B) (finv c.A c.A_ne_zero)

/-- R123: the denominator `Z²·u⁴ + Z·u²`. -/
def mapDenominator (c : Config) (u : Fq) : Fq :=
  let u2 := fsqr u
  let u4 := fsqr u2
  fadd (fmul (constZZ c) u4) (fmul c.Z u2)

/-- R123: `tv1 = 1 / d`, and 0 where `d = 0`, by an explicit test and without inverting 0. -/
def mapTv1 (d : Fq) : Fq :=
  if h : feq d Fq.zero = true then Fq.zero else finv d (ne_zero_of_not_feq h)

/-- R124: `x1 = (-B/A) · (1 + tv1)`. -/
def mapX1 (c : Config) (u : Fq) : Fq :=
  fmul (constNBA c) (fadd Fq.one (mapTv1 (mapDenominator c u)))

/-- R125: `x2 = Z·u²·x1`. -/
def mapX2 (c : Config) (u : Fq) : Fq := fmul (fmul c.Z (fsqr u)) (mapX1 c u)

/-- R126: step 6, the call of the Root Selector on the candidate pair of `u`. -/
def mapSelect (c : Config) (u : Fq) : Except FaultCode (Fq × Fq) :=
  let x1 := mapX1 c u
  let x2 := mapX2 c u
  selectXY (rootFn c.root) x1 x2 (curveRhs c x1) (curveRhs c x2)

/-- R120, R128: the registers a `MAP` of `u` writes when the selector returned `(x, y)`: the candidate pair, and the
point with the sign of `y` fixed (R127) and `INF` 0. -/
def writeMapped (u x y : Fq) (s : State) : State :=
  let x1 := mapX1 s.cfg u
  let x2 := mapX2 s.cfg u
  ((((((s.writeReg .x1 x1).writeReg .x2 x2).writeReg .gx1 (curveRhs s.cfg x1)).writeReg .gx2
    (curveRhs s.cfg x2)).writeReg .x x).writeReg .y (signFixup u y)).clearInf

/-- R120: `MAP s` on `u = F[s]`.  The invariants of R131 are properties of this definition, and the statements about `MAP` state
them: (a) to (d) MapReturnsAPointOfTheCurve, (e) MapCompletesExactlyOffZero, (f) MapIgnoresWhichHonestRoot, (g)
MapOfTheNegatedSource. -/
def execMap (src : MapSrc) (s : State) : Host.Outcome State Fault Refusal :=
  .next (s.ifReady fun s =>
    match s.source (mapSource src) with
    | none => s.faultEntry .srcInvalid mapDests
    | some u =>
      match mapSelect s.cfg u with
      | .ok (x, y) => (writeMapped u x y s).respondOk
      | .error c => s.faultEntry c mapDests)

end Sys2Proof.Machine
end

