-- ==== Sys2Proof/Machine/DataMovement.lean ====
section
/-! DEFINITION. The meanings of the data movement and status requests: `WRB`, `WRF`, `RDF`, `RDS` (R100 to R103). -/

namespace Sys2Proof.Machine

/-- R100: `WRB b, payload` writes one whole input block and recomputes nothing. -/
def execWrb (b : BlockIx) (payload : PayloadBits) (s : State) : Host.Outcome State Fault Refusal :=
  .next (s.ifReady fun s => (s.writeBlock b (blockOfPayload payload)).respondOk)

/-- R101: `WRF r, payload` writes one host-writable register; a payload outside `[0, P)` is the fault `RANGE`, which
invalidates the register.  `X` and `Y` cannot be written: `WRF 6` and `WRF 7` are illegal requests (R66), and
illegality has priority (R157). -/
def execWrf (r : FieldReg) (payload : FieldBits) (s : State) : Host.Outcome State Fault Refusal :=
  .next (s.ifReady fun s =>
    if notHostWritable r then s.faultEntry .illegalReq []
    else if P ≤ payload.toNat then s.faultEntry .range [r]
    else (s.writeBits r payload).respondOk)

/-- R102: `RDF r` answers the valid bit and the integer; the integer of an invalid register is a free value (U1).
Served in `READY` and in `FAULTED` alike (R163), and no register changes. -/
def execRdf (r : FieldReg) (s : State) : Host.Outcome State Fault Refusal :=
  .next (if s.vf.get r then s.respond true (.register (readout true (s.f.get r)))
    else { s with draws := s.draws + 1 }.respond true (.register (readout false (Config.unspecified s.draws))))

/-- R103: `RDS` answers the status word; served in `READY` and in `FAULTED` alike (R163). -/
def execRds (s : State) : Host.Outcome State Fault Refusal :=
  .next (s.respond true (.status (statusWord s)))

end Sys2Proof.Machine
end

