-- ==== Sys2Proof/Machine/Dispatch.lean ====
section
/-! DEFINITION. The dispatch of requests to their meanings, one arm for each constructor of `Instr`. -/

namespace Sys2Proof.Machine
open Sys2Proof

def exec (i : Instr) (s : State) : Host.Outcome State Fault Refusal :=
  match i with
  | .wrb b payload => Sys2Proof.Machine.execWrb b payload s
  | .wrf r payload => Sys2Proof.Machine.execWrf r payload s
  | .rdf r => Sys2Proof.Machine.execRdf r s
  | .rds => Sys2Proof.Machine.execRds s
  | .dec b => Sys2Proof.Machine.execDec b s
  | .h2f => Sys2Proof.Machine.execH2f s
  | .map src => Sys2Proof.Machine.execMap src s
  | .sel => Sys2Proof.Machine.execSel s

end Sys2Proof.Machine
end

