-- ==== Sys2Proof/Machine/Step.lean ====
section
/-! DEFINITION. The block's only step (R41, R68): take the host's next move and carry it out to completion. -/

namespace Sys2Proof.Machine

/-- R68: one step.  A request word that decodes is executed; one that does not is an illegal request (R66); the
host's reset is R176; with no move of the host pending the block stays as it is (R40, log entry 5). -/
def step (s : State) : Host.Outcome State Fault Refusal :=
  match s.takeMove with
  | none => .next s
  | some (.reset, t) => .next t.resetMove
  | some (.request r, t) =>
    match decode r with
    | .ok i => exec i t
    | .error _ => .next t.illegalRequest

/-- `s` with the request of bits `w` presented by the host as its very next move. -/
def State.withFetchWord (s : State) (nbits w : Nat) : State := s.present (requestOfBits nbits w)

end Sys2Proof.Machine
end

