-- ==== Sys2Proof/Machine/Assembler.lean ====
section
/-! DEFINITION. The assembler syntax of R69: from one line of text, as a list of characters, to the request it
spells.  Whether the word is legal is for the decoder (R65) to say. -/

namespace Sys2Proof.Machine

/-- R62: the opcode a mnemonic stands for. -/
def opOfMnemonic (m : List Char) : Option (BitVec 8) :=
  if m = ['W', 'R', 'B'] then some 0x01#8
  else if m = ['W', 'R', 'F'] then some 0x02#8
  else if m = ['R', 'D', 'F'] then some 0x03#8
  else if m = ['R', 'D', 'S'] then some 0x04#8
  else if m = ['D', 'E', 'C'] then some 0x10#8
  else if m = ['H', '2', 'F'] then some 0x11#8
  else if m = ['M', 'A', 'P'] then some 0x12#8
  else if m = ['S', 'E', 'L'] then some 0x13#8
  else none

/-- R69: the register names, for the indices 0 to 7. -/
def indexOfName (n : List Char) : Option Nat :=
  if n = ['U', '0'] then some 0
  else if n = ['U', '1'] then some 1
  else if n = ['X', '1'] then some 2
  else if n = ['X', '2'] then some 3
  else if n = ['G', 'X', '1'] then some 4
  else if n = ['G', 'X', '2'] then some 5
  else if n = ['X'] then some 6
  else if n = ['Y'] then some 7
  else none

/-- The value of a digit of base 10 or 16. -/
def digitValue (base : Nat) (c : Char) : Option Nat :=
  let n := c.toNat
  let v := if 48 ≤ n ∧ n ≤ 57 then n - 48
    else if 97 ≤ n ∧ n ≤ 102 then n - 87
    else if 65 ≤ n ∧ n ≤ 70 then n - 55
    else 16
  if v < base then some v else none

/-- The number a list of digits spells after `acc`, most significant digit first. -/
def digitsFrom (base : Nat) : (acc : Nat) → List Char → Option Nat
  | acc, [] => some acc
  | acc, c :: cs =>
    match digitValue base c with
    | some v => digitsFrom base (acc * base + v) cs
    | none => none

/-- A decimal number: at least one digit. -/
def parseDecimal : List Char → Option Nat
  | [] => none
  | c :: cs => digitsFrom 10 0 (c :: cs)

/-- A hexadecimal number `0x...` and how many digits it has; `_` only groups digits (R11). -/
def parseHex : List Char → Option (Nat × Nat)
  | '0' :: 'x' :: cs =>
    let ds := cs.filter (· ≠ '_')
    if ds = [] then none
    else match digitsFrom 16 0 ds with
      | some v => some (v, ds.length)
      | none => none
  | _ => none

/-- R69: an index operand, a decimal number or a register's name, that fits the 4-bit field. -/
def parseIndex (t : List Char) : Option (BitVec 4) :=
  match (match indexOfName t with | some i => some i | none => parseDecimal t) with
  | some i => if i < 16 then some (BitVec.ofNat 4 i) else none
  | none => none

/-- R69: a payload of `width` bits: hexadecimal, with exactly 96 digits for `WRB` and up to 64 for `WRF`, or
decimal.  DESIGN CHOICE (log entry 16): R69 writes decimal "for small values" without a bound; every decimal that fits the
payload width of the request (384 bits for `WRB`, 256 for `WRF`) is accepted. -/
def parsePayload (op : BitVec 8) (t : List Char) : Option PayloadBits :=
  match parseHex t with
  | some (v, n) =>
    if (op = 0x01#8 ∧ n = 96) ∨ (op = 0x02#8 ∧ n ≤ 64) then some (BitVec.ofNat 384 v) else none
  | none =>
    match parseDecimal t with
    | some v =>
      if v / 2 ^ 192 / 2 ^ (if op = 0x01#8 then 192 else 64) = 0 then some (BitVec.ofNat 384 v) else none
    | none => none

/-- Split at a separator. -/
def splitAt (sep : Char) : List Char → List (List Char)
  | [] => [[]]
  | c :: cs =>
    if c = sep then [] :: splitAt sep cs
    else match splitAt sep cs with
      | [] => [[c]]
      | t :: ts => (c :: t) :: ts

/-- Drop the spaces before and after a token. -/
def trim (t : List Char) : List Char :=
  ((t.dropWhile (· = ' ')).reverse.dropWhile (· = ' ')).reverse

/-- The request of an opcode, an index and a payload (R60). -/
def requestOf (op : BitVec 8) (idx : BitVec 4) (payload : PayloadBits) : Request :=
  ⟨(op ++ 0#4 ++ idx).cast (by decide), payload⟩

/-- The operands of a request: none, an index, or an index and a payload (R62 says which). -/
def assembleOperands (op : BitVec 8) (ts : List (List Char)) : Option Request :=
  if op = 0x04#8 ∨ op = 0x11#8 ∨ op = 0x13#8 then
    if ts = [[]] then some (requestOf op 0#4 0#384) else none
  else if op = 0x01#8 ∨ op = 0x02#8 then
    match ts with
    | [i, p] =>
      match parseIndex i, parsePayload op p with
      | some idx, some payload => some (requestOf op idx payload)
      | _, _ => none
    | _ => none
  else
    match ts with
    | [i] => (parseIndex i).map (requestOf op · 0#384)
    | _ => none

/-- R69: one line of assembly: the mnemonic, then its operands separated by commas; `;` starts a comment. -/
def assemble (line : List Char) : Option Request :=
  let code := trim (line.takeWhile (· ≠ ';'))
  match opOfMnemonic (code.takeWhile (· ≠ ' ')) with
  | some op => assembleOperands op ((splitAt ',' (code.dropWhile (· ≠ ' '))).map trim)
  | none => none

end Sys2Proof.Machine
end

