-- ==== Sys2Proof/Machine/Pseudo.lean ====
section
/-! DEFINITION. The pseudo-instructions of R70: each is the list of requests it expands to, in order. -/

namespace Sys2Proof.Machine

/-- R44: the `WRB` payload that carries a 48-byte string, `OS2IP` of it. -/
def payloadOfBytes (s : List Byte) : PayloadBits := BitVec.ofNat 384 (os2ip s)

/-- R70: `LD96 s`: bytes `[0,48)` to block 0 and bytes `[48,96)` to block 1. -/
def pseudoLd96 (s : Vector Byte 96) : List Request :=
  [encode (.wrb .ib0 (payloadOfBytes (s.toList.take 48))),
   encode (.wrb .ib1 (payloadOfBytes (s.toList.drop 48)))]

/-- R70: `LDC x1, x2, gx1, gx2`. -/
def pseudoLdc (x1 x2 gx1 gx2 : FieldBits) : List Request :=
  [encode (.wrf .x1 x1), encode (.wrf .x2 x2), encode (.wrf .gx1 gx1), encode (.wrf .gx2 gx2)]

/-- R70: `RDP`. -/
def pseudoRdp : List Request := [encode (.rdf .x), encode (.rdf .y), encode .rds]

/-- R70: `HTF s`, doc00's `hash_to_field` with the expander's output given. -/
def pseudoHtf (s : Vector Byte 96) : List Request := pseudoLd96 s ++ [encode .h2f] ++ pseudoRdp

/-- R70: `MAPU u`, doc00's `map_to_curve(u)`. -/
def pseudoMapu (u : FieldBits) : List Request :=
  [encode (.wrf .u0 u), encode (.map .fromU0)] ++ pseudoRdp

/-- The host's moves that issue a list of requests in order (R70: the later ones are issued even if one answers
`ok = 0`). -/
def issue (rs : List Request) : List HostMove := rs.map .request

end Sys2Proof.Machine
end

