-- ==== Sys2Proof/Safety.lean ====
section
/-! DEFINITION. What claims about the block are stated in: the invariant of every reachable state, when two states agree,
the tables of R22, R157 and R161 as functions of the instruction, and reading a register as a field element. -/

namespace Sys2Proof.Machine

/-- R21, R22: register `r` is valid and holds the field element `v`. -/
abbrev State.Holds (s : State) (r : FieldReg) (v : Fq) : Prop :=
  s.vf.get r = true ∧ s.f.get r = BitVec.ofNat 256 v.val

/-- R160, R163: the response of a faulting or refused request. -/
def notOk : Option Response := some ⟨false, .none⟩

/-- R42: the response of a completed request that answers no data. -/
def okNoData : Option Response := some ⟨true, .none⟩

/-- The 256 bits a register holds for a field element (R21). -/
def bits (v : Fq) : FieldBits := BitVec.ofNat 256 v.val

/-- R160: `t` is `s` after the fault entry with this cause code and these destinations: `FLT`, `CAUSE` and the response
are set, the destinations are invalid, and nothing else has changed. -/
structure FaultOf (s t : State) (code : BitVec 4) (dests : List FieldReg) : Prop where
  flt      : t.flt = true
  cause    : t.cause = code
  response : t.response = notOk
  invalid  : ∀ r ∈ dests, t.vf.get r = false
  others   : ∀ r, r ∉ dests → t.f.get r = s.f.get r ∧ t.vf.get r = s.vf.get r
  ib       : t.ib = s.ib
  vb       : t.vb = s.vb
  inf      : t.inf = s.inf
  cfg      : t.cfg = s.cfg
  pending  : t.pending = s.pending

/-- The intermediate values of a `MAP` (R120). -/
structure MapValues where
  u2   : Fq
  u4   : Fq
  d    : Fq
  tv1  : Fq
  ainv : Fq
  x1   : Fq
  gx1  : Fq
  x2   : Fq
  gx2  : Fq
deriving DecidableEq, Repr

/-- R120 to R125: the values are those of the source `u`: the equations of the pseudocode, with each inverse said by what
it does (`1 / d` is the element whose product with `d` is 1, R86) and `tv1 = 0` where `d = 0` (R123). -/
structure MapValues.Of (m : MapValues) (c : Config) (u : Fq) : Prop where
  u2   : m.u2 = fsqr u
  u4   : m.u4 = fsqr m.u2
  d    : m.d = fadd (fmul (fmul c.Z c.Z) m.u4) (fmul c.Z m.u2)
  zero : m.d = Fq.zero → m.tv1 = Fq.zero
  inv  : m.d ≠ Fq.zero → fmul m.d m.tv1 = Fq.one
  ainv : fmul c.A m.ainv = Fq.one
  x1   : m.x1 = fmul (fmul (fneg c.B) m.ainv) (fadd Fq.one m.tv1)
  gx1  : m.gx1 = fadd (fadd (fmul (fmul m.x1 m.x1) m.x1) (fmul c.A m.x1)) c.B
  x2   : m.x2 = fmul (fmul c.Z m.u2) m.x1
  gx2  : m.gx2 = fadd (fadd (fmul (fmul m.x2 m.x2) m.x2) (fmul c.A m.x2)) c.B

/-- R120, R127, R128: `s` after a completing `MAP` of `u` whose selector returned `(x, y)`. -/
def mapped (s : State) (m : MapValues) (u x y : Fq) : State :=
  { s with
    f := ⟨s.f.u0, s.f.u1, bits m.x1, bits m.x2, bits m.gx1, bits m.gx2, bits x,
      bits (if lsb u = lsb y then y else fneg y)⟩
    vf := ⟨s.vf.u0, s.vf.u1, true, true, true, true, true, true⟩
    inf := false
    response := okNoData }

/-- R135: `s` after a completing `SEL` whose selector returned `(x, y)`. -/
def selected (s : State) (x y : Fq) : State :=
  { s with
    f := { s.f with x := bits x, y := bits y }
    vf := { s.vf with x := true, y := true }
    response := okNoData }

/-- What holds in every reachable state: a valid register holds a value below `P` (R21), `INF` is 0 (R27), `CAUSE` is 0
while `FLT` is 0 and is one of the codes 1 to 5 while `FLT` is 1 (R29). -/
structure State.Inv (s : State) : Prop where
  reduced  : ∀ r, s.vf.get r = true → (s.f.get r).toNat < P
  finite   : s.inf = false
  noCause  : s.flt = false → s.cause = 0#4
  hasCause : s.flt = true → 1 ≤ s.cause.toNat ∧ s.cause.toNat ≤ 5

/-- The architectural state of R20 is the same in both. -/
def State.SameBlock (s t : State) : Prop :=
  t.f = s.f ∧ t.vf = s.vf ∧ t.ib = s.ib ∧ t.vb = s.vb ∧ t.inf = s.inf ∧ t.flt = s.flt ∧ t.cause = s.cause

/-- The two states differ at most in what their invalid registers and invalid blocks hold (R24, U1). -/
structure State.SameVisible (s t : State) : Prop where
  vf       : t.vf = s.vf
  vb       : t.vb = s.vb
  inf      : t.inf = s.inf
  flt      : t.flt = s.flt
  cause    : t.cause = s.cause
  cfg      : t.cfg = s.cfg
  draws    : t.draws = s.draws
  pending  : t.pending = s.pending
  response : t.response = s.response
  f        : ∀ r, s.vf.get r = true → t.f.get r = s.f.get r
  ib       : ∀ b, s.vb.get b = true → t.ib.get b = s.ib.get b

/-- R161: the destinations a faulting request invalidates. -/
def faultDests : Instr → List FieldReg
  | .wrb _ _ => []
  | .wrf r _ => [r]
  | .rdf _ => []
  | .rds => []
  | .dec .ib0 => [.u0]
  | .dec .ib1 => [.u1]
  | .h2f => [.u0, .u1, .x, .y]
  | .map _ => [.x1, .x2, .gx1, .gx2, .x, .y]
  | .sel => [.x, .y]

/-- R157: the faults a legal request can raise. -/
def mayRaise : Instr → List FaultCode
  | .wrb _ _ => []
  | .wrf _ _ => [.range]
  | .rdf _ => []
  | .rds => []
  | .dec _ => [.srcInvalid]
  | .h2f => [.srcInvalid]
  | .map _ => [.srcInvalid, .rootXor, .integrity]
  | .sel => [.srcInvalid, .rootXor, .integrity]

/-- R22: the field registers a request writes. -/
def writesRegs : Instr → List FieldReg
  | .wrb _ _ => []
  | .wrf r _ => [r]
  | .rdf _ => []
  | .rds => []
  | .dec .ib0 => [.u0]
  | .dec .ib1 => [.u1]
  | .h2f => [.u0, .u1, .x, .y]
  | .map _ => [.x1, .x2, .gx1, .gx2, .x, .y]
  | .sel => [.x, .y]

/-- R22: the field registers a request reads as sources. -/
def readsRegs : Instr → List FieldReg
  | .wrb _ _ => []
  | .wrf _ _ => []
  | .rdf _ => []
  | .rds => []
  | .dec _ => []
  | .h2f => []
  | .map .fromU0 => [.u0]
  | .map .fromU1 => [.u1]
  | .sel => [.x1, .x2, .gx1, .gx2]

/-- R25: the input blocks a request reads as sources. -/
def readsBlocks : Instr → List BlockIx
  | .wrb _ _ => []
  | .wrf _ _ => []
  | .rdf _ => []
  | .rds => []
  | .dec b => [b]
  | .h2f => [.ib0, .ib1]
  | .map _ => []
  | .sel => []

/-- R62: the requests that compute: `DEC`, `H2F`, `MAP`, `SEL`. -/
def computes : Instr → Bool
  | .wrb _ _ => false
  | .wrf _ _ => false
  | .rdf _ => false
  | .rds => false
  | .dec _ => true
  | .h2f => true
  | .map _ => true
  | .sel => true

/-- R42: the number of bits of response data. -/
def ResponseData.width : ResponseData → Nat
  | .none => 0
  | .register _ => 257
  | .status _ => 32

/-- R163: the two requests that are served in state `FAULTED` too. -/
def isRead : Instr → Bool
  | .wrb _ _ => false
  | .wrf _ _ => false
  | .rdf _ => true
  | .rds => true
  | .dec _ => false
  | .h2f => false
  | .map _ => false
  | .sel => false

/-- R63: the 23 legal words. -/
def legalWords : List ReqWord :=
  [0x0100#16, 0x0101#16, 0x0200#16, 0x0201#16, 0x0202#16, 0x0203#16, 0x0204#16, 0x0205#16,
   0x0300#16, 0x0301#16, 0x0302#16, 0x0303#16, 0x0304#16, 0x0305#16, 0x0306#16, 0x0307#16,
   0x0400#16, 0x1000#16, 0x1001#16, 0x1100#16, 0x1200#16, 0x1201#16, 0x1300#16]

/-- Every payload presented with this word makes an illegal request (R66). -/
def IllegalWord (iw : ReqWord) : Prop := ∀ payload : PayloadBits, ∃ e, decodeWord iw payload = .error e

end Sys2Proof.Machine
end

