-- ==== Sys2Proof/Certificates/Slice0/Obligations.lean ====
section
/-! DEFINITION. The statements for the provers, in four groups: the request encoding, the block's step and what holds of
every step, each request, and the mapper and its arithmetic. -/

open Sys2Proof Sys2Proof.Machine

/-! ## The request encoding -/

/-- R63: a word is legal exactly when it is one of the 23 listed, whatever payload is presented. -/
def Obligations.LegalWordsAreThe23Listed : Prop :=
  ∀ (iw : ReqWord) (payload : PayloadBits),
    (∃ i, decodeWord iw payload = .ok i) ↔ iw ∈ legalWords

/-- R60, R62, R65: decoding the encoding of a well-formed instruction gives it back, with every operand and payload. -/
def Obligations.DecodeOfEncode : Prop :=
  ∀ i : Instr, i.WellFormed → decode (encode i) = .ok i

/-- R60, R65: what the decoder answers is well formed, and encodes to the word it was read from. -/
def Obligations.DecodedInstructionEncodesToItsWord : Prop :=
  ∀ (r : Request) (i : Instr), decode r = .ok i → i.WellFormed ∧ (encode i).iw = r.iw

/-- R64: the rows of the opcode table, match and mask as the rule gives them; a word selects a row exactly when it decodes
to an instruction of that row's mnemonic; no word selects two rows; and `WRF`'s exact match and mask pairs. -/
def Obligations.OpcodeTableSelectsTheDecodedRow : Prop :=
  opcodeTable.map (fun row => (row.mnemonic, row.pattern, row.mask)) =
    [("WRB", 0x0100#16, 0xFFFE#16), ("WRF", 0x0200#16, 0xFFF8#16), ("RDF", 0x0300#16, 0xFFF8#16),
     ("RDS", 0x0400#16, 0xFFFF#16), ("DEC", 0x1000#16, 0xFFFE#16), ("H2F", 0x1100#16, 0xFFFF#16),
     ("MAP", 0x1200#16, 0xFFFE#16), ("SEL", 0x1300#16, 0xFFFF#16)] ∧
  (∀ (iw : ReqWord) (payload : PayloadBits), ∀ row ∈ opcodeTable,
    (iw &&& row.mask = row.pattern ∧ (row.mnemonic = "WRF" → (idxField iw).toNat ≤ 5)) ↔
      ∃ i, decodeWord iw payload = .ok i ∧ i.mnemonic = row.mnemonic) ∧
  (∀ (iw : ReqWord), ∀ row ∈ opcodeTable, ∀ row' ∈ opcodeTable,
    iw &&& row.mask = row.pattern → iw &&& row'.mask = row'.pattern → row = row') ∧
  (∀ (iw : ReqWord) (payload : PayloadBits),
    (iw &&& 0xFFFC#16 = 0x0200#16 ∨ iw &&& 0xFFFE#16 = 0x0204#16) ↔
      ∃ r v, decodeWord iw payload = .ok (.wrf r v))

/-- R66, R151: which words are illegal, and that an illegal request in `READY` sets `FLT`, `CAUSE` to 1 and the response,
and nothing else, whatever its payload. -/
def Obligations.IllegalWordsFault : Prop :=
  (∀ (iw : ReqWord) (payload : PayloadBits),
    (∃ e, decodeWord iw payload = .error e) ↔
      (zeroField iw ≠ 0#4 ∨
       opField iw ∉ [0x01#8, 0x02#8, 0x03#8, 0x04#8, 0x10#8, 0x11#8, 0x12#8, 0x13#8] ∨
       (opField iw ∈ [0x01#8, 0x10#8, 0x12#8] ∧ 2 ≤ (idxField iw).toNat) ∨
       (opField iw = 0x02#8 ∧ 6 ≤ (idxField iw).toNat) ∨
       (opField iw = 0x03#8 ∧ 8 ≤ (idxField iw).toNat) ∨
       (opField iw ∈ [0x04#8, 0x11#8, 0x13#8] ∧ idxField iw ≠ 0#4))) ∧
  IllegalWord 0x0000#16 ∧ IllegalWord 0xFFFF#16 ∧
  (∀ (s : State) (r : Request) (rest : List HostMove) (e : Illegal),
    s.flt = false → s.pending = .request r :: rest → decode r = .error e →
      step s = .next { s with pending := rest, flt := true, cause := 1#4, response := notOk })

/-- A few words written out from R62, and what they stand for. -/
def Obligations.WordsOfTheTableDecode : Prop :=
  decodeTableWord 16 0b0000000100000001 = some (.wrb .ib1 0#384) ∧
  decodeTableWord 16 0b0000001000000101 = some (.wrf .gx2 0#256) ∧
  decodeTableWord 16 0b0000001100000111 = some (.rdf .y) ∧
  decodeTableWord 16 0b0000010000000000 = some .rds ∧
  decodeTableWord 16 0b0001000000000001 = some (.dec .ib1) ∧
  decodeTableWord 16 0b0001000100000000 = some .h2f ∧
  decodeTableWord 16 0b0001001000000001 = some (.map .fromU1) ∧
  decodeTableWord 16 0b0001001100000000 = some .sel ∧
  decodeTableWord 16 0b0000001000000110 = none

/-- R44: the bit order of payloads and responses: a `WRB` payload is the block as one big-endian integer, a `WRF` payload is
the low 256 wires, an `RDF` response has the valid bit above the integer, an `RDS` response is the status word. -/
def Obligations.PayloadAndResponseBitOrder : Prop :=
  (∀ (p : PayloadBits) (k : Nat) (hk : k < 48), (blockOfPayload p)[k] = p.extractLsb' (376 - 8 * k) 8) ∧
  (∀ p : PayloadBits, os2ip (blockOfPayload p).toList = p.toNat) ∧
  (∀ (iw : ReqWord) (p q : PayloadBits) (b : BlockIx), decodeWord iw p = .ok (.wrb b q) → q = p) ∧
  (∀ (iw : ReqWord) (p : PayloadBits) (r : FieldReg) (v : FieldBits),
    decodeWord iw p = .ok (.wrf r v) → v = p.extractLsb' 0 256) ∧
  (∀ (v : Bool) (value : FieldBits),
    (readout v value).getLsbD 256 = v ∧ (readout v value).extractLsb' 0 256 = value) ∧
  (∀ s : State, (statusWord s).getLsbD 0 = s.flt)

/-- R70: the words each pseudo-instruction expands to, and the payloads of `LD96`. -/
def Obligations.PseudoInstructionsExpand : Prop :=
  (∀ s : Vector Byte 96, (pseudoHtf s).map (·.iw) =
    [0x0100#16, 0x0101#16, 0x1100#16, 0x0306#16, 0x0307#16, 0x0400#16]) ∧
  (∀ s : Vector Byte 96, (pseudoLd96 s).map (·.payload.toNat) =
    [os2ip (s.toList.take 48), os2ip (s.toList.drop 48)]) ∧
  (∀ x1 x2 gx1 gx2 : FieldBits, (pseudoLdc x1 x2 gx1 gx2).map (fun r => (r.iw, r.payload.toNat)) =
    [(0x0202#16, x1.toNat), (0x0203#16, x2.toNat), (0x0204#16, gx1.toNat), (0x0205#16, gx2.toNat)]) ∧
  (∀ u : FieldBits, (pseudoMapu u).map (fun r => (r.iw, r.payload.toNat)) =
    [(0x0200#16, u.toNat), (0x1200#16, 0), (0x0306#16, 0), (0x0307#16, 0), (0x0400#16, 0)])

/-! ## The step -/

/-- R68: when the host's next move is a request whose word decodes to `i`, the step is `exec i` on the state in which
that move has been taken; nothing else is done around it. -/
def Obligations.StepRunsTheDecodedInstruction : Prop :=
  ∀ (s : State) (r : Request) (rest : List HostMove) (i : Instr),
    s.pending = .request r :: rest → decode r = .ok i → step s = exec i { s with pending := rest }

/-- A request presented as the host's very next move is the one the next step runs (the model's way to place an
instruction, log entry 5). -/
def Obligations.PresentedWordRunsNext : Prop :=
  ∀ (s : State) (nbits w : Nat) (i : Instr),
    decodeTableWord nbits w = some i → step (s.withFetchWord nbits w) = exec i s

/-- With no move of the host pending a step changes nothing (the model's choice, log entry 5). -/
def Obligations.IdleStepChangesNothing : Prop :=
  ∀ s : State, s.pending = [] → step s = .next s

/-- R68: the sequencer's step: in `FAULTED` the two reads are served and everything else is refused; in `READY` an illegal
word is the fault `ILLEGAL_REQ` without destinations and a legal one is executed. -/
def Obligations.SequencerStep : Prop :=
  ∀ (s s1 : State) (r : Request) (rest : List HostMove),
    s.pending = .request r :: rest → s1 = { s with pending := rest } →
      (s.flt = true →
        (∀ reg, decode r = .ok (.rdf reg) → ∃ t value, step s = .next t ∧ s1.SameBlock t ∧ t.cfg = s1.cfg ∧
          t.pending = rest ∧ t.response = some ⟨true, .register (readout (s.vf.get reg) value)⟩ ∧
          (s.vf.get reg = true → value = s.f.get reg)) ∧
        (decode r = .ok .rds → step s = .next { s1 with response := some ⟨true, .status (statusWord s1)⟩ }) ∧
        ((∀ reg, decode r ≠ .ok (.rdf reg)) → decode r ≠ .ok .rds →
          step s = .next { s1 with response := notOk })) ∧
      (s.flt = false →
        (∀ e, decode r = .error e →
          step s = .next { s1 with flt := true, cause := 1#4, response := notOk }) ∧
        (∀ i, decode r = .ok i → step s = exec i s1 ∧
          ∃ t, exec i s1 = .next t ∧
            ((t.flt = false ∧ ∃ data, t.response = some ⟨true, data⟩) ∨ (t.flt = true ∧ t.response = notOk))))

/-- R163: `FAULTED` is entered by the fault entry of a request and left only by reset; in it the block's state does not
change, a request answers `ok = 1` exactly when it is a legal `RDF` or `RDS`, and `RDF` answers as in `READY`. -/
def Obligations.FaultedIsLeftOnlyByReset : Prop :=
  (∀ s t : State, s.flt = true → step s = .next t →
    (∃ rest, s.pending = .reset :: rest ∧ t.flt = false) ∨
    (s.SameBlock t ∧ ∀ r rest, s.pending = .request r :: rest → ∃ rsp, t.response = some rsp ∧
      (rsp.ok = true ↔ ∃ i, decode r = .ok i ∧ isRead i = true) ∧ (rsp.ok = false → rsp.data = .none))) ∧
  (∀ s t : State, s.flt = false → step s = .next t → t.flt = true →
    ∃ r rest code dests, s.pending = .request r :: rest ∧ FaultOf { s with pending := rest } t code dests) ∧
  (∀ (reg : FieldReg) (s t t' : State), exec (.rdf reg) { s with flt := false } = .next t →
    exec (.rdf reg) { s with flt := true } = .next t' → t'.response = t.response)

/-- R35: the reset values the spec gives, and that no register and no block can be a source. -/
def Obligations.ResetValues : Prop :=
  State.reset.flt = false ∧ State.reset.cause = 0#4 ∧ State.reset.inf = false ∧
  (∀ r, State.reset.vf.get r = false) ∧ (∀ b, State.reset.vb.get b = false) ∧
  (∀ r, State.reset.source r = none) ∧ (∀ b, State.reset.sourceBlock b = none) ∧
  statusWord State.reset = 0x00000000#32

/-- R176: the host's reset, from every state. -/
def Obligations.ResetMoveGivesTheResetState : Prop :=
  ∀ (s : State) (rest : List HostMove), s.pending = .reset :: rest →
    ∃ t, step s = .next t ∧ t.flt = false ∧ t.cause = 0#4 ∧ t.inf = false ∧
      (∀ r, t.vf.get r = false) ∧ (∀ b, t.vb.get b = false) ∧
      (∀ r, t.source r = none) ∧ (∀ b, t.sourceBlock b = none) ∧
      statusWord t = 0x00000000#32 ∧ t.cfg = s.cfg ∧ t.pending = rest ∧
      (∀ r, ∃ t' value, exec (.rdf r) t = .next t' ∧
        t'.response = some ⟨true, .register (readout false value)⟩)

/-- R177: the state after a reset does not depend on the block's state before it.  R177 excepts the unspecified contents of
registers and blocks: that these are equal too (all zero bits) is the model's choice, log entry 1 (DESIGN CHOICE, unsafe), and
that a reset clears the last response is the model's choice, log entry 10 (DESIGN CHOICE). -/
def Obligations.ResetIsMemoryless : Prop :=
  ∀ (s s' : State) (rest : List HostMove), s.pending = .reset :: rest → s'.pending = .reset :: rest →
    s'.cfg = s.cfg → ∃ t t', step s = .next t ∧ step s' = .next t' ∧
      { t with draws := 0 } = { t' with draws := 0 }

/-- Every step keeps the invariant: valid registers hold values below `P` (R21), `INF` is 0 (R27), and `CAUSE` is 0 in
`READY` and one of 1 to 5 in `FAULTED` (R29). -/
def Obligations.StepKeepsInvariant : Prop :=
  ∀ s t : State, s.Inv → step s = .next t → t.Inv

/-- The reset state meets the invariant. -/
def Obligations.ResetMeetsInvariant : Prop := State.reset.Inv

/-- R187: every step answers, the host's moves are taken in order, and a request gets a response. -/
def Obligations.EveryRequestIsAnswered : Prop :=
  ∀ s : State, ∃ t, step s = .next t ∧ t.pending = s.pending.tail ∧
    (∀ r rest, s.pending = .request r :: rest → ∃ rsp, t.response = some rsp)

/-- R6, R31: no step, a reset included, changes the constants or the root unit. -/
def Obligations.ConfigurationNeverChanges : Prop :=
  ∀ s t : State, step s = .next t → t.cfg = s.cfg

/-- R24, U1: what invalid registers and invalid blocks hold influences nothing: two states that agree on everything else
go to states that agree on everything else, with equal responses. -/
def Obligations.InvalidContentsAreInvisible : Prop :=
  ∀ s s' t t' : State, s.SameVisible s' → step s = .next t → step s' = .next t' → t.SameVisible t'

/-- R22: a register that the table does not list as written by the request keeps its contents and its valid bit, in
every outcome of every request. -/
def Obligations.RegisterFrame : Prop :=
  ∀ (i : Instr) (s t : State) (r : FieldReg), exec i s = .next t → r ∉ writesRegs i →
    t.f.get r = s.f.get r ∧ t.vf.get r = s.vf.get r

/-- R25, R104: only `WRB` writes an input block, and only the one it names; no request writes `CAUSE` or `FLT` except by
the fault entry; no request touches the host's further moves. -/
def Obligations.BlockAndFlagFrame : Prop :=
  ∀ (i : Instr) (s t : State), exec i s = .next t →
    (∀ b, (∀ p, i ≠ .wrb b p) → t.ib.get b = s.ib.get b ∧ t.vb.get b = s.vb.get b) ∧
    (t.flt = s.flt → t.cause = s.cause) ∧ (s.flt = true → t.flt = true) ∧
    t.pending = s.pending ∧ t.cfg = s.cfg

/-- R27: `INF` is written 0 by every completing `MAP` and `H2F`, not written by any other request, 0 after reset, never
set to 1, 0 after any run from reset, and bit 8 of the status word. -/
def Obligations.InfinityFlagIsNeverSet : Prop :=
  (∀ (src : MapSrc) (s t : State), s.flt = false → exec (.map src) s = .next t → t.flt = false → t.inf = false) ∧
  (∀ s t : State, s.flt = false → exec .h2f s = .next t → t.flt = false → t.inf = false) ∧
  (∀ (i : Instr) (s t : State), (∀ src, i ≠ .map src) → i ≠ .h2f → exec i s = .next t → t.inf = s.inf) ∧
  State.reset.inf = false ∧
  (∀ s t : State, step s = .next t → t.inf = true → s.inf = true) ∧
  (∀ (moves : List HostMove) (cfg : Config) (k : Nat) (t : State),
    core.run k ({ State.reset with pending := moves, cfg := cfg } : State) = .next t → t.inf = false) ∧
  (∀ s : State, (statusWord s).getLsbD 8 = s.inf)

/-- R24: a valid bit drops only at reset or as a destination of a request that raises a fault, and the valid bits of the
input blocks drop only at reset. -/
def Obligations.ValidBitsDropOnlyAtFaults : Prop :=
  (∀ (i : Instr) (s t : State) (r : FieldReg), exec i s = .next t → s.vf.get r = true → t.vf.get r = false →
    s.flt = false ∧ t.flt = true ∧ r ∈ faultDests i) ∧
  (∀ (i : Instr) (s t : State) (b : BlockIx), exec i s = .next t → s.vb.get b = true → t.vb.get b = true)

/-- R160, R161, R157: what a request that raises a fault leaves: its destinations of the table of R161 invalid, `FLT` set,
`CAUSE` one of the codes the table of R157 allows it, `ok = 0` without data, and nothing else changed; an illegal word
has no destinations. -/
def Obligations.FaultEntryInvalidatesDestinations : Prop :=
  (∀ (i : Instr) (s t : State), i.WellFormed → s.flt = false → exec i s = .next t → t.flt = true →
    ∃ c ∈ mayRaise i, FaultOf s t c.code (faultDests i)) ∧
  (∀ (s : State) (r : Request) (rest : List HostMove) (e : Illegal),
    s.flt = false → s.pending = .request r :: rest → decode r = .error e →
      ∃ t, step s = .next t ∧ FaultOf { s with pending := rest } t 1#4 [])

/-- R42, R67: the widths of payloads and responses, and what `ok` means.  The last clause, that the payload wires above the
opcode's width do not matter, is the model's choice: 384 wires for every request, of which a narrower payload takes the low
ones (log entry 3, DESIGN CHOICE). -/
def Obligations.ResponseFormat : Prop :=
  (∀ (i : Instr) (s t : State), exec i s = .next t →
    ∃ rsp, t.response = some rsp ∧ (rsp.ok = true → rsp.data.width = i.responseWidth) ∧
      (rsp.ok = false → rsp.data = .none) ∧
      (rsp.ok = true ↔ isRead i = true ∨ (s.flt = false ∧ t.flt = false))) ∧
  (∀ (iw : ReqWord) (p p' : PayloadBits) (i : Instr), decodeWord iw p = .ok i →
    (∀ k, k < i.payloadWidth → p'.getLsbD k = p.getLsbD k) → decodeWord iw p' = .ok i)

/-- R48: the reads change no state of the block; a completed writing or computing request issued again changes nothing. -/
def Obligations.RequestsAreIdempotent : Prop :=
  (∀ (i : Instr) (s t : State), isRead i = true → exec i s = .next t → s.SameBlock t) ∧
  (∀ (i : Instr) (s t : State), isRead i = false → s.flt = false → exec i s = .next t → t.flt = false →
    exec i t = .next t)

/-- R32, R54: what a completing computing request leaves in its destinations depends on its sources and the configuration
alone, not on anything that happened before. -/
def Obligations.ResultsDependOnSourcesAlone : Prop :=
  ∀ (i : Instr) (s s' t t' : State), computes i = true → s'.cfg = s.cfg →
    (∀ r ∈ readsRegs i, s'.f.get r = s.f.get r) → (∀ b ∈ readsBlocks i, s'.ib.get b = s.ib.get b) →
    s.flt = false → s'.flt = false → exec i s = .next t → exec i s' = .next t' →
    t.flt = false → t'.flt = false → ∀ r ∈ writesRegs i, t'.f.get r = t.f.get r ∧ t'.vf.get r = true

/-! ## The requests -/

/-- R100: `WRB`: the words that select it, the bytes it stores, the valid bit it sets, and that nothing else changes. -/
def Obligations.WrbWritesOneBlock : Prop :=
  (∀ p : PayloadBits, decodeWord 0x0100#16 p = .ok (.wrb .ib0 p) ∧ decodeWord 0x0101#16 p = .ok (.wrb .ib1 p)) ∧
  (∀ iw : ReqWord, opField iw = 0x01#8 → (zeroField iw ≠ 0#4 ∨ 2 ≤ (idxField iw).toNat) → IllegalWord iw) ∧
  (∀ (b : BlockIx) (p : PayloadBits) (s : State) (block : Block), s.flt = false →
    (∀ (k : Nat) (hk : k < 48), block[k] = p.extractLsb' (376 - 8 * k) 8) →
    exec (.wrb b p) s =
      .next { s with ib := s.ib.set b block, vb := s.vb.set b true, response := okNoData })

/-- R101: `WRF`: the words that select it; a payload below `P` is stored as it is; a payload of `P` or more raises `RANGE`
and invalidates the register alone.  The last clause is the model's, not the rule's: `exec` of the terms `wrf` of `X` and of
`Y`, which no legal word decodes to, raises `ILLEGAL_REQ` (log entry 14, DEDUCED). -/
def Obligations.WrfWritesOneRegister : Prop :=
  (∀ p : PayloadBits,
    decodeWord 0x0200#16 p = .ok (.wrf .u0 (p.extractLsb' 0 256)) ∧
    decodeWord 0x0201#16 p = .ok (.wrf .u1 (p.extractLsb' 0 256)) ∧
    decodeWord 0x0202#16 p = .ok (.wrf .x1 (p.extractLsb' 0 256)) ∧
    decodeWord 0x0203#16 p = .ok (.wrf .x2 (p.extractLsb' 0 256)) ∧
    decodeWord 0x0204#16 p = .ok (.wrf .gx1 (p.extractLsb' 0 256)) ∧
    decodeWord 0x0205#16 p = .ok (.wrf .gx2 (p.extractLsb' 0 256))) ∧
  (∀ iw : ReqWord, opField iw = 0x02#8 → (zeroField iw ≠ 0#4 ∨ 6 ≤ (idxField iw).toNat) → IllegalWord iw) ∧
  (∀ (r : FieldReg) (v : FieldBits) (s : State), r ∉ [FieldReg.x, FieldReg.y] → s.flt = false → v.toNat < P →
    exec (.wrf r v) s =
      .next { s with f := s.f.set r v, vf := s.vf.set r true, response := okNoData }) ∧
  (∀ (r : FieldReg) (v : FieldBits) (s : State), r ∉ [FieldReg.x, FieldReg.y] → s.flt = false → P ≤ v.toNat →
    ∃ t, exec (.wrf r v) s = .next t ∧ FaultOf s t 2#4 [r]) ∧
  (∀ (r : FieldReg) (v : FieldBits) (s : State), r ∈ [FieldReg.x, FieldReg.y] → s.flt = false →
    ∃ t, exec (.wrf r v) s = .next t ∧ FaultOf s t 1#4 [])

/-- R102: `RDF`: the words that select it; a valid register answers `v = 1` and its integer, an invalid one `v = 0` and some
value; no state of the block changes, in `READY` and in `FAULTED`. -/
def Obligations.RdfReadsOneRegister : Prop :=
  (∀ p : PayloadBits,
    decodeWord 0x0300#16 p = .ok (.rdf .u0) ∧ decodeWord 0x0301#16 p = .ok (.rdf .u1) ∧
    decodeWord 0x0302#16 p = .ok (.rdf .x1) ∧ decodeWord 0x0303#16 p = .ok (.rdf .x2) ∧
    decodeWord 0x0304#16 p = .ok (.rdf .gx1) ∧ decodeWord 0x0305#16 p = .ok (.rdf .gx2) ∧
    decodeWord 0x0306#16 p = .ok (.rdf .x) ∧ decodeWord 0x0307#16 p = .ok (.rdf .y)) ∧
  (∀ iw : ReqWord, opField iw = 0x03#8 → (zeroField iw ≠ 0#4 ∨ 8 ≤ (idxField iw).toNat) → IllegalWord iw) ∧
  (∀ (r : FieldReg) (s : State), s.vf.get r = true →
    exec (.rdf r) s = .next { s with response := some ⟨true, .register (readout true (s.f.get r))⟩ }) ∧
  (∀ (r : FieldReg) (s : State), s.vf.get r = false →
    ∃ t value, exec (.rdf r) s = .next t ∧ s.SameBlock t ∧ t.cfg = s.cfg ∧ t.pending = s.pending ∧
      t.response = some ⟨true, .register (readout false value)⟩)

/-- R103, R30: `RDS`: the word that selects it, and the status word bit by bit; no state of the block changes, in `READY` and
in `FAULTED`; after reset the word is 0. -/
def Obligations.RdsReadsTheStatusWord : Prop :=
  (∀ p : PayloadBits, decodeWord 0x0400#16 p = .ok .rds) ∧
  (∀ iw : ReqWord, opField iw = 0x04#8 → (zeroField iw ≠ 0#4 ∨ idxField iw ≠ 0#4) → IllegalWord iw) ∧
  (∀ s : State, ∃ w : StatusWord, exec .rds s = .next { s with response := some ⟨true, .status w⟩ } ∧
    w.getLsbD 0 = s.flt ∧ w.extractLsb' 1 3 = 0#3 ∧ w.extractLsb' 4 4 = s.cause ∧ w.getLsbD 8 = s.inf ∧
    w.extractLsb' 9 7 = 0#7 ∧ (∀ r, w.getLsbD (16 + r.idx.toNat) = s.vf.get r) ∧
    (∀ b, w.getLsbD (24 + b.idx.toNat) = s.vb.get b) ∧ w.extractLsb' 26 6 = 0#6) ∧
  exec .rds State.reset = .next { State.reset with response := some ⟨true, .status 0x00000000#32⟩ }

/-- R111: decoding a 48-byte block is reducing its big-endian integer modulo `P`. -/
def Obligations.Decode48IsTheIntegerModP : Prop :=
  ∀ s : Block, (decode48 s).val = os2ip s.toList % P

/-- R112: `DEC`: the words that select it; a valid block is decoded into the register of the same index and nothing else
changes; an invalid block raises `SRC_INVALID` and invalidates that register alone. -/
def Obligations.DecDecodesOneBlock : Prop :=
  (∀ p : PayloadBits, decodeWord 0x1000#16 p = .ok (.dec .ib0) ∧ decodeWord 0x1001#16 p = .ok (.dec .ib1)) ∧
  (∀ iw : ReqWord, opField iw = 0x10#8 → (zeroField iw ≠ 0#4 ∨ 2 ≤ (idxField iw).toNat) → IllegalWord iw) ∧
  (∀ (b : BlockIx) (dest : FieldReg) (s : State), (b, dest) ∈ [(.ib0, .u0), (.ib1, .u1)] → s.flt = false →
    (s.vb.get b = true → exec (.dec b) s =
      .next { s with
        f := s.f.set dest (BitVec.ofNat 256 (os2ip (s.ib.get b).toList % P))
        vf := s.vf.set dest true
        response := okNoData }) ∧
    (s.vb.get b = false → ∃ t, exec (.dec b) s = .next t ∧ FaultOf s t 3#4 [dest]))

/-- R113: `H2F`: the word that selects it; both blocks valid, the two decoded elements go to `U0`, `U1` and to `X`, `Y`, `INF`
is 0 and nothing else changes; otherwise `SRC_INVALID` invalidates those four registers. -/
def Obligations.H2fPacksTheDecodedPair : Prop :=
  (∀ p : PayloadBits, decodeWord 0x1100#16 p = .ok .h2f) ∧
  (∀ iw : ReqWord, opField iw = 0x11#8 → (zeroField iw ≠ 0#4 ∨ idxField iw ≠ 0#4) → IllegalWord iw) ∧
  (∀ (s : State) (v0 v1 : FieldBits), s.flt = false → s.vb.ib0 = true → s.vb.ib1 = true →
    v0 = BitVec.ofNat 256 (os2ip s.ib.ib0.toList % P) → v1 = BitVec.ofNat 256 (os2ip s.ib.ib1.toList % P) →
    exec .h2f s = .next { s with
      f := { s.f with u0 := v0, u1 := v1, x := v0, y := v1 }
      vf := { s.vf with u0 := true, u1 := true, x := true, y := true }
      inf := false
      response := okNoData }) ∧
  (∀ s : State, s.flt = false → (s.vb.ib0 = false ∨ s.vb.ib1 = false) →
    ∃ t, exec .h2f s = .next t ∧ FaultOf s t 3#4 [.u0, .u1, .x, .y])

/-- R143, R144: whatever the root unit answers, the selector returns a pair only as the answer of exactly one query, verified
by squaring; both answers or neither is `ROOT_XOR`, a wrong answer is `INTEGRITY`. -/
def Obligations.SelectorTable : Prop :=
  ∀ (root : Fq → Option Fq) (x1 x2 gx1 gx2 : Fq),
    (∀ a, root gx1 = some a → root gx2 = none → fsqr a = gx1 → selectXY root x1 x2 gx1 gx2 = .ok (x1, a)) ∧
    (∀ a, root gx1 = some a → root gx2 = none → fsqr a ≠ gx1 →
      selectXY root x1 x2 gx1 gx2 = .error .integrity) ∧
    (∀ b, root gx1 = none → root gx2 = some b → fsqr b = gx2 → selectXY root x1 x2 gx1 gx2 = .ok (x2, b)) ∧
    (∀ b, root gx1 = none → root gx2 = some b → fsqr b ≠ gx2 →
      selectXY root x1 x2 gx1 gx2 = .error .integrity) ∧
    (∀ a b, root gx1 = some a → root gx2 = some b → selectXY root x1 x2 gx1 gx2 = .error .rootXor) ∧
    (root gx1 = none → root gx2 = none → selectXY root x1 x2 gx1 gx2 = .error .rootXor)

/-- R135: `SEL`: the word that selects it, its result for each case of the two root queries, and its faults. -/
def Obligations.SelFollowsItsRule : Prop :=
  (∀ p : PayloadBits, decodeWord 0x1300#16 p = .ok .sel) ∧
  (∀ iw : ReqWord, opField iw = 0x13#8 → (zeroField iw ≠ 0#4 ∨ idxField iw ≠ 0#4) → IllegalWord iw) ∧
  (∀ (s : State) (x1 x2 gx1 gx2 : Fq) (root : Fq → Option Fq), s.flt = false → root = rootFn s.cfg.root →
    s.Holds .x1 x1 → s.Holds .x2 x2 → s.Holds .gx1 gx1 → s.Holds .gx2 gx2 →
    (∀ a, root gx1 = some a → root gx2 = none → fsqr a = gx1 → exec .sel s = .next (selected s x1 a)) ∧
    (∀ b, root gx1 = none → root gx2 = some b → fsqr b = gx2 → exec .sel s = .next (selected s x2 b)) ∧
    (∀ a, root gx1 = some a → root gx2 = none → fsqr a ≠ gx1 →
      ∃ t, exec .sel s = .next t ∧ FaultOf s t 5#4 [.x, .y]) ∧
    (∀ b, root gx1 = none → root gx2 = some b → fsqr b ≠ gx2 →
      ∃ t, exec .sel s = .next t ∧ FaultOf s t 5#4 [.x, .y]) ∧
    (((root gx1).isSome = (root gx2).isSome) → ∃ t, exec .sel s = .next t ∧ FaultOf s t 4#4 [.x, .y])) ∧
  (∀ s : State, s.flt = false →
    (s.vf.x1 = false ∨ s.vf.x2 = false ∨ s.vf.gx1 = false ∨ s.vf.gx2 = false) →
    ∃ t, exec .sel s = .next t ∧ FaultOf s t 3#4 [.x, .y])

/-- R120: `MAP`: the words that select it; that the intermediate values exist for every source; its result for each case of
the two root queries, with the sign of `Y` fixed (R127); and its faults. -/
def Obligations.MapFollowsItsRule : Prop :=
  (∀ p : PayloadBits, decodeWord 0x1200#16 p = .ok (.map .fromU0) ∧ decodeWord 0x1201#16 p = .ok (.map .fromU1)) ∧
  (∀ iw : ReqWord, opField iw = 0x12#8 → (zeroField iw ≠ 0#4 ∨ 2 ≤ (idxField iw).toNat) → IllegalWord iw) ∧
  (∀ (c : Config) (u : Fq), ∃ m : MapValues, m.Of c u) ∧
  (∀ (s : State) (src : MapSrc) (reg : FieldReg) (u : Fq) (m : MapValues) (root : Fq → Option Fq),
    (src, reg) ∈ [(MapSrc.fromU0, FieldReg.u0), (MapSrc.fromU1, FieldReg.u1)] →
    s.flt = false → root = rootFn s.cfg.root → s.Holds reg u → m.Of s.cfg u →
    (∀ a, root m.gx1 = some a → root m.gx2 = none → fsqr a = m.gx1 →
      exec (.map src) s = .next (mapped s m u m.x1 a)) ∧
    (∀ b, root m.gx1 = none → root m.gx2 = some b → fsqr b = m.gx2 →
      exec (.map src) s = .next (mapped s m u m.x2 b)) ∧
    (∀ a, root m.gx1 = some a → root m.gx2 = none → fsqr a ≠ m.gx1 →
      ∃ t, exec (.map src) s = .next t ∧ FaultOf s t 5#4 [.x1, .x2, .gx1, .gx2, .x, .y]) ∧
    (∀ b, root m.gx1 = none → root m.gx2 = some b → fsqr b ≠ m.gx2 →
      ∃ t, exec (.map src) s = .next t ∧ FaultOf s t 5#4 [.x1, .x2, .gx1, .gx2, .x, .y]) ∧
    ((root m.gx1).isSome = (root m.gx2).isSome →
      ∃ t, exec (.map src) s = .next t ∧ FaultOf s t 4#4 [.x1, .x2, .gx1, .gx2, .x, .y])) ∧
  (∀ (s : State) (src : MapSrc) (reg : FieldReg),
    (src, reg) ∈ [(MapSrc.fromU0, FieldReg.u0), (MapSrc.fromU1, FieldReg.u1)] →
    s.flt = false → s.vf.get reg = false →
    ∃ t, exec (.map src) s = .next t ∧ FaultOf s t 3#4 [.x1, .x2, .gx1, .gx2, .x, .y])

/-! ## The mapper and its arithmetic -/

/-- R131 (a) to (d), R130: whatever the root unit is, a completing `MAP` leaves a point of E' in `X`, `Y`: `Y² = g(X)`, `X` is one
of the candidates, `INF` is 0, and the parity of `Y` is that of the source unless `Y` is 0. -/
def Obligations.MapReturnsAPointOfTheCurve : Prop :=
  ∀ (src : MapSrc) (s t : State) (u : Fq), s.Holds (mapSource src) u → s.flt = false →
    exec (.map src) s = .next t → t.flt = false →
    ∃ x y : Fq, t.Holds .x x ∧ t.Holds .y y ∧
      fsqr y = fadd (fadd (fmul (fmul x x) x) (fmul s.cfg.A x)) s.cfg.B ∧
      (t.Holds .x1 x ∨ t.Holds .x2 x) ∧ t.inf = false ∧ (y ≠ Fq.zero → lsb y = lsb u)

/-- R131 (e), R129: with the default constants and an honest root unit, `MAP` completes exactly when its source is valid and
not 0; at 0 it raises `ROOT_XOR`, of an invalid source `SRC_INVALID`.  The values of the default constants are log entry 6
(PRESUMED). -/
def Obligations.MapCompletesExactlyOffZero : Prop :=
  ∀ (src : MapSrc) (s : State), s.flt = false →
    s.cfg = defaultConfig s.cfg.root → RootHonest (rootFn s.cfg.root) →
    ∃ t, exec (.map src) s = .next t ∧
      (∀ u : Fq, s.Holds (mapSource src) u →
        (u ≠ Fq.zero → t.flt = false ∧ t.response = okNoData) ∧
        (u = Fq.zero → t.flt = true ∧ t.cause = 4#4 ∧ t.response = notOk)) ∧
      (s.vf.get (mapSource src) = false → t.flt = true ∧ t.cause = 3#4 ∧ t.response = notOk)

/-- R131 (f), R127: two instances that differ only in which honest root unit they have give the same outcome of every `MAP`. -/
def Obligations.MapIgnoresWhichHonestRoot : Prop :=
  ∀ (src : MapSrc) (s t t' : State) (unit : RootUnit),
    RootHonest (rootFn s.cfg.root) → RootHonest (rootFn unit) →
    exec (.map src) s = .next t →
    exec (.map src) { s with cfg := { s.cfg with root := unit } } = .next t' →
    t' = { t with cfg := { s.cfg with root := unit } }

/-- R131 (g): `MAP` of `P - u` gives the same `X` as `MAP` of `u` and the opposite `Y`, for `u` not 0 and whatever the root unit. -/
def Obligations.MapOfTheNegatedSource : Prop :=
  ∀ (src : MapSrc) (s t t' : State) (u : Fq), u ≠ Fq.zero → s.flt = false → s.Holds (mapSource src) u →
    exec (.map src) s = .next t → t.flt = false →
    exec (.map src) (s.writeReg (mapSource src) (fneg u)) = .next t' →
    ∃ x y : Fq, t.Holds .x x ∧ t.Holds .y y ∧ t'.Holds .x x ∧ t'.Holds .y (fneg y)

/-- R185: `SEL` after a completing `MAP` completes, keeps `X` and leaves in `Y` the value before the sign fixup, `Y` or its
negative. -/
def Obligations.ReselectionAfterMap : Prop :=
  ∀ (src : MapSrc) (s t : State), s.flt = false → exec (.map src) s = .next t → t.flt = false →
    ∃ t' y, exec .sel t = .next t' ∧ t'.response = okNoData ∧ t'.f.x = t.f.x ∧ t.Holds .y y ∧
      (t'.Holds .y y ∨ t'.Holds .y (fneg y))

/-- R123: the denominator is 0 exactly for `u = 0` and `Z·u² = -1`; there `tv1` is 0, elsewhere its product with the
denominator is 1. -/
def Obligations.DenominatorAndItsInverse : Prop :=
  ∀ (c : Config) (u : Fq),
    mapDenominator c u = fadd (fmul (fmul c.Z c.Z) (fsqr (fsqr u))) (fmul c.Z (fsqr u)) ∧
    (mapDenominator c u = Fq.zero ↔ u = Fq.zero ∨ fmul c.Z (fsqr u) = fneg Fq.one) ∧
    (mapDenominator c u = Fq.zero → mapTv1 (mapDenominator c u) = Fq.zero) ∧
    (mapDenominator c u ≠ Fq.zero → fmul (mapDenominator c u) (mapTv1 (mapDenominator c u)) = Fq.one)

/-- R125: the two right-hand sides satisfy `gx2 = (Z·u²)³ · gx1` when the denominator is not 0. -/
def Obligations.CandidatesAreRelated : Prop :=
  ∀ (c : Config) (u : Fq), mapDenominator c u ≠ Fq.zero →
    curveRhs c (mapX2 c u) =
      fmul (fmul (fsqr (fmul c.Z (fsqr u))) (fmul c.Z (fsqr u))) (curveRhs c (mapX1 c u))

/-- R127: the sign fixup returns `y` or its negative, with the parity of `u` unless `y` is 0, and the same value for both roots
`y` and `-y`. -/
def Obligations.SignFixupMatchesParity : Prop :=
  ∀ u y : Fq, signFixup u y = (if lsb u = lsb y then y else fneg y) ∧
    (y ≠ Fq.zero → lsb (signFixup u y) = lsb u) ∧ signFixup u Fq.zero = Fq.zero ∧
    signFixup u (fneg y) = signFixup u y

/-- R137: with an honest root unit, `SEL` completes when exactly one of `GX1`, `GX2` is a square, and otherwise raises
`ROOT_XOR`; `INTEGRITY` cannot occur. -/
def Obligations.HonestRootDecidesSel : Prop :=
  ∀ (s : State) (x1 x2 gx1 gx2 : Fq), s.flt = false → RootHonest (rootFn s.cfg.root) →
    s.Holds .x1 x1 → s.Holds .x2 x2 → s.Holds .gx1 gx1 → s.Holds .gx2 gx2 →
    (IsSquareFq gx1 → ¬ IsSquareFq gx2 → ∃ y, fsqr y = gx1 ∧ exec .sel s = .next (selected s x1 y)) ∧
    (¬ IsSquareFq gx1 → IsSquareFq gx2 → ∃ y, fsqr y = gx2 ∧ exec .sel s = .next (selected s x2 y)) ∧
    ((IsSquareFq gx1 ↔ IsSquareFq gx2) → ∃ t, exec .sel s = .next t ∧ FaultOf s t 4#4 [.x, .y])

/-- R82, R83, R84: addition, subtraction and multiplication modulo `P`: commutative, associative, distributive, and their
corner cases. -/
def Obligations.FieldArithmeticLaws : Prop :=
  (∀ a b : Fq, (fadd a b).val = (a.val + b.val) % P ∧ (fmul a b).val = (a.val * b.val) % P ∧
    fsqr a = fmul a a ∧
    (fsub a b).val = (if b.val ≤ a.val then a.val - b.val else a.val + P - b.val)) ∧
  (∀ a b : Fq, fadd a b = fadd b a ∧ fmul a b = fmul b a ∧ fsub a b = fadd a (fneg b)) ∧
  (∀ a b c : Fq, fadd (fadd a b) c = fadd a (fadd b c) ∧ fmul (fmul a b) c = fmul a (fmul b c) ∧
    fmul a (fadd b c) = fadd (fmul a b) (fmul a c)) ∧
  (∀ a : Fq, fadd a Fq.zero = a ∧ fmul a Fq.zero = Fq.zero ∧ fmul a Fq.one = a ∧ fsub a a = Fq.zero)

/-- R85: negation: its value, its corner cases, and that it flips the parity of every element but 0. -/
def Obligations.NegationFlipsParity : Prop :=
  ∀ a : Fq, (fneg a).val = (if a = Fq.zero then 0 else P - a.val) ∧ fneg (fneg a) = a ∧
    fadd a (fneg a) = Fq.zero ∧ (a ≠ Fq.zero → lsb (fneg a) = 1#1 - lsb a) ∧ lsb Fq.zero = 0#1

/-- R92: the sign bit is the parity of the integer. -/
def Obligations.SignBitIsParity : Prop :=
  ∀ a : Fq, lsb a = BitVec.ofNat 1 (a.val % 2) ∧
    lsb a = (((toLe32 a).headD 0#8) &&& 1#8).extractLsb' 0 1

/-- R86: the inverse of a nonzero element is the one element whose product with it is 1, and its corner cases. -/
def Obligations.InverseIsTheUniqueInverse : Prop :=
  ∀ (a : Fq) (h : a ≠ Fq.zero), fmul a (finv a h) = Fq.one ∧ (∀ c, fmul a c = Fq.one → c = finv a h) ∧
    (a = Fq.one → finv a h = Fq.one) ∧ (a = fneg Fq.one → finv a h = a) ∧
    (∀ h' : finv a h ≠ Fq.zero, finv (finv a h) h' = a)

/-- R13, R88 to R90: the byte conversions: 32 bytes each way, mutually inverse below `2^256`, reduced modulo `P` where they
give a field element. -/
def Obligations.ByteConversionsRoundTrip : Prop :=
  (∀ v : Nat, v < 2 ^ 256 → os2ip (be32 v) = v ∧ (be32 v).length = 32 ∧ (le32 v).length = 32 ∧
    (fromBe32 (be32 v)).val = v % P ∧ (fromLe32 (le32 v)).val = v % P) ∧
  (∀ a : Fq, fromBe32 (toBe32 a) = a ∧ fromLe32 (toLe32 a) = a ∧ (toLe32 a).reverse = toBe32 a)

/-- R6, U6: the constants of every instance meet the three requirements; and the constants an instance has by default (log entry
6, PRESUMED). -/
def Obligations.ConstantsMeetTheirRequirements : Prop :=
  (∀ s : State, ¬ (∃ r : Fq, fsqr r = s.cfg.Z) ∧ s.cfg.A ≠ Fq.zero ∧ s.cfg.B ≠ Fq.zero) ∧
  (∀ unit : RootUnit, LawfulConfig (defaultConfig unit) ∧ (defaultConfig unit).root = unit ∧
    (defaultConfig unit).Z.val = 0xFFFFFFFFFFFFFFFFFFFFFFFFFFFFFFFFFFFFFFFFFFFFFFFFFFFFFFFEFFFFFC24 ∧
    (defaultConfig unit).A.val = 0x3F8731ABDD661ADCA08A5558F0F5D272E953D363CB6F0E5D405447C01A444533 ∧
    (defaultConfig unit).B.val = 0x6EB)

/-- R125: because `Z` is not a square (R6), exactly one of `gx1`, `gx2` is a square whenever the denominator and `gx1` are not 0,
for all constants an instance may have; so with an honest root unit `MAP` completes there. -/
def Obligations.ExactlyOneCandidateIsASquare : Prop :=
  (∀ (c : Config) (u : Fq), mapDenominator c u ≠ Fq.zero → curveRhs c (mapX1 c u) ≠ Fq.zero →
    (IsSquareFq (curveRhs c (mapX1 c u)) ↔ ¬ IsSquareFq (curveRhs c (mapX2 c u)))) ∧
  (∀ (src : MapSrc) (s : State) (u : Fq), s.flt = false → s.Holds (mapSource src) u →
    RootHonest (rootFn s.cfg.root) → mapDenominator s.cfg u ≠ Fq.zero →
    curveRhs s.cfg (mapX1 s.cfg u) ≠ Fq.zero →
    ∃ t, exec (.map src) s = .next t ∧ t.flt = false ∧ t.response = okNoData)
end

