-- ==== Sys2Proof/Laws/Prime.lean ====
section
/-! SUPPORT. A primality criterion by certificate (Lucas, applied to a complete list of prime factors of `p - 1`), with
a modular power that the kernel can evaluate. -/

namespace Sys2Proof.Laws

/-- `b ^ e mod m` by repeated squaring, for exponents below `2 ^ fuel`. -/
def powModN (m : Nat) : (fuel : Nat) → (b e : Nat) → Nat
  | 0, _, _ => 1
  | fuel + 1, b, e =>
    let h := powModN m fuel (b * b % m) (e / 2)
    if e % 2 = 1 then b * h % m else h

theorem powModN_cast (m fuel b e : Nat) (he : e < 2 ^ fuel) :
    ((powModN m fuel b e : Nat) : ZMod m) = (b : ZMod m) ^ e := by
  induction fuel generalizing b e with
  | zero => obtain rfl : e = 0 := by simpa using he
            simp [powModN]
  | succ k ih =>
    have hlt : e / 2 < 2 ^ k := by rw [pow_succ] at he; omega
    have hsq : ((powModN m k (b * b % m) (e / 2) : Nat) : ZMod m) = (b : ZMod m) ^ (2 * (e / 2)) := by
      rw [ih _ _ hlt, ZMod.natCast_mod, Nat.cast_mul, ← pow_two, ← pow_mul]
    by_cases h : e % 2 = 1
    · simp only [powModN, h, if_true, ZMod.natCast_mod, Nat.cast_mul, hsq, ← pow_succ']
      congr 1; omega
    · simp only [powModN, h, if_false, hsq]
      congr 1; omega

/-- `p` is prime if `L` lists the prime factors of `p - 1` with multiplicity and `a` has order `p - 1`. -/
theorem prime_of_certificate (p fuel a : Nat) (L : List Nat) (hp : 1 < p) (hfuel : p < 2 ^ fuel)
    (hL : ∀ q ∈ L, q.Prime) (hprod : L.prod = p - 1) (h1 : powModN p fuel a (p - 1) = 1)
    (h2 : ∀ q ∈ L, powModN p fuel a ((p - 1) / q) % p ≠ 1) : p.Prime := by
  refine lucas_primality p (a : ZMod p) ?_ ?_
  · rw [← powModN_cast p fuel a (p - 1) (by omega), h1, Nat.cast_one]
  · intro q hq hdvd hcontra
    obtain ⟨r, hr, hqr⟩ := (Prime.dvd_prod_iff hq.prime).mp (hprod ▸ hdvd)
    obtain rfl : q = r := (Nat.prime_dvd_prime_iff_eq hq (hL r hr)).mp hqr
    apply h2 q hr
    have hlt : (p - 1) / q < 2 ^ fuel := lt_of_le_of_lt (Nat.div_le_self _ _) (by omega)
    rw [← powModN_cast p fuel a _ hlt, ← Nat.cast_one (R := ZMod p), ZMod.natCast_eq_natCast_iff'] at hcontra
    rwa [Nat.mod_eq_of_lt hp] at hcontra

end Sys2Proof.Laws
end

