-- ==== Sys2Proof/Laws/PrimeP.lean ====
section
/-! SUPPORT. The field modulus `P` is prime (R5), by a chain of Lucas certificates. -/

namespace Sys2Proof.Laws

-- One theorem at a time: a thread that waits for the kernel in each of these theorems at once takes too much memory.
set_option Elab.async false

theorem prime_factor_1 : Nat.Prime 173378833005251801 := by
  refine prime_of_certificate _ 58 6 [2, 2, 2, 5, 5, 2621, 24809, 13331831] (by decide +kernel) (by decide +kernel) ?_
    (by decide +kernel) (by decide +kernel) (by decide +kernel)
  simp only [List.forall_mem_cons, List.not_mem_nil, false_imp_iff, implies_true, and_true]
  refine ⟨by norm_num, by norm_num, by norm_num, by norm_num, by norm_num, by norm_num, by norm_num, by norm_num⟩

theorem prime_factor_2 : Nat.Prime 22149492674086928081353 := by
  refine prime_of_certificate _ 75 5 [2, 2, 2, 3, 5323, 173378833005251801] (by decide +kernel) (by decide +kernel) ?_
    (by decide +kernel) (by decide +kernel) (by decide +kernel)
  simp only [List.forall_mem_cons, List.not_mem_nil, false_imp_iff, implies_true, and_true]
  refine ⟨by norm_num, by norm_num, by norm_num, by norm_num, by norm_num, prime_factor_1⟩

theorem prime_factor_3 : Nat.Prime 132896956044521568488119 := by
  refine prime_of_certificate _ 77 6 [2, 3, 22149492674086928081353] (by decide +kernel) (by decide +kernel) ?_
    (by decide +kernel) (by decide +kernel) (by decide +kernel)
  simp only [List.forall_mem_cons, List.not_mem_nil, false_imp_iff, implies_true, and_true]
  refine ⟨by norm_num, by norm_num, prime_factor_2⟩

theorem prime_factor_4 : Nat.Prime 255515944373312847190720520512484175977 := by
  refine prime_of_certificate _ 128 3 [2, 2, 2, 7, 7, 11, 1627, 2657, 4423, 41201, 96557, 7240687, 107590001] (by decide +kernel) (by decide +kernel) ?_
    (by decide +kernel) (by decide +kernel) (by decide +kernel)
  simp only [List.forall_mem_cons, List.not_mem_nil, false_imp_iff, implies_true, and_true]
  refine ⟨by norm_num, by norm_num, by norm_num, by norm_num, by norm_num, by norm_num, by norm_num, by norm_num, by norm_num, by norm_num, by norm_num, by norm_num, by norm_num⟩

theorem prime_factor_5 : Nat.Prime 205115282021455665897114700593932402728804164701536103180137503955397371 := by
  refine prime_of_certificate _ 237 10 [2, 3, 5, 29, 29, 31, 7723, 132896956044521568488119, 255515944373312847190720520512484175977] (by decide +kernel) (by decide +kernel) ?_
    (by decide +kernel) (by decide +kernel) (by decide +kernel)
  simp only [List.forall_mem_cons, List.not_mem_nil, false_imp_iff, implies_true, and_true]
  refine ⟨by norm_num, by norm_num, by norm_num, by norm_num, by norm_num, by norm_num, by norm_num, prime_factor_3, prime_factor_4⟩

theorem P_prime : Nat.Prime P := by
  refine prime_of_certificate _ 256 3 [2, 3, 7, 13441, 205115282021455665897114700593932402728804164701536103180137503955397371] (by decide +kernel) (by decide +kernel) ?_
    (by decide +kernel) (by decide +kernel) (by decide +kernel)
  simp only [List.forall_mem_cons, List.not_mem_nil, false_imp_iff, implies_true, and_true]
  refine ⟨by norm_num, by norm_num, by norm_num, by norm_num, prime_factor_5⟩

end Sys2Proof.Laws
end

