-- ==== Sys2Proof/Laws/Field.lean ====
section
/-! SUPPORT. The field primitives as arithmetic in `ZMod P`: `toZ` carries each primitive to the ring operation of the
same name, so that a claim about field elements becomes a claim about a field of Mathlib. -/

namespace Sys2Proof.Machine
open Sys2Proof.Laws

-- One theorem at a time: a thread that waits for the kernel in each of these theorems at once takes too much memory.
set_option Elab.async false

/-- A field element as an element of `ZMod P`. -/
def toZ (a : Fq) : ZMod P := (a.val : ZMod P)

theorem toZ_injective {a b : Fq} (h : toZ a = toZ b) : a = b := by
  have := (ZMod.natCast_eq_natCast_iff' a.val b.val P).mp h
  rw [Nat.mod_eq_of_lt a.isLt, Nat.mod_eq_of_lt b.isLt] at this
  exact Fq.ext this

theorem toZ_inj {a b : Fq} : toZ a = toZ b ↔ a = b := ⟨toZ_injective, fun h => h ▸ rfl⟩

@[simp] theorem toZ_reduce (n : Nat) : toZ (reduce n) = (n : ZMod P) := by
  simp [toZ, reduce]

@[simp] theorem toZ_zero : toZ Fq.zero = 0 := by simp [toZ, Fq.zero]

@[simp] theorem toZ_one : toZ Fq.one = 1 := by simp [toZ, Fq.one]

@[simp] theorem toZ_fadd (a b : Fq) : toZ (fadd a b) = toZ a + toZ b := by
  rw [fadd, toZ_reduce, Nat.cast_add, toZ, toZ]

@[simp] theorem toZ_fmul (a b : Fq) : toZ (fmul a b) = toZ a * toZ b := by
  rw [fmul, toZ_reduce, Nat.cast_mul, toZ, toZ]

@[simp] theorem toZ_fsqr (a : Fq) : toZ (fsqr a) = toZ a ^ 2 := by
  simp [fsqr, pow_two]

@[simp] theorem toZ_fneg (a : Fq) : toZ (fneg a) = -toZ a := by
  rw [fneg, toZ_reduce, Nat.cast_sub a.isLt.le, ZMod.natCast_self, zero_sub, toZ]

theorem powMod_eq_powModN (fuel b e : Nat) : powMod fuel b e = powModN P fuel b e := by
  induction fuel generalizing b e with
  | zero => rfl
  | succ k ih => simp only [powMod, powModN, ih]

/-- A power of a field element is its power in `ZMod P`. -/
theorem toZ_fpow (a : Fq) {e : Nat} (he : e < 2 ^ 256) : toZ (fpow a e) = toZ a ^ e := by
  rw [fpow, toZ_reduce, powMod_eq_powModN, powModN_cast P 256 a.val e he, toZ]

/-- Fermat's little theorem for this `P`. -/
theorem pow_P_sub_one {z : ZMod P} (h : z ≠ 0) : z ^ (P - 1) = 1 := by
  have : Fact (Nat.Prime P) := ⟨P_prime⟩
  exact ZMod.pow_card_sub_one_eq_one h

theorem toZ_surjective (z : ZMod P) : ∃ a : Fq, toZ a = z := by
  have : NeZero P := ⟨by decide⟩
  exact ⟨⟨z.val, ZMod.val_lt z⟩, by simp [toZ]⟩

theorem isSquareFq_iff (a : Fq) : IsSquareFq a ↔ ∃ z : ZMod P, z ^ 2 = toZ a := by
  constructor
  · rintro ⟨r, rfl⟩
    exact ⟨toZ r, by simp⟩
  · rintro ⟨z, hz⟩
    obtain ⟨r, rfl⟩ := toZ_surjective z
    exact ⟨r, toZ_injective (by simpa using hz)⟩

/-- Every configuration meets the requirements of R6: it carries their proofs. -/
theorem lawfulConfig (c : Config) : LawfulConfig c := ⟨c.Z_not_square, c.A_ne_zero, c.B_ne_zero⟩

/-- `Z` is not 0, since 0 is a square. -/
theorem config_Z_ne_zero (c : Config) : c.Z ≠ Fq.zero :=
  fun h => c.Z_not_square ⟨Fq.zero, by rw [h]; decide⟩

/-- The reference root unit is honest: it answers a root of every square and only of squares. -/
theorem rootHonest_reference : RootHonest (rootFn .reference) := by
  intro g
  constructor
  · rintro ⟨r, rfl⟩
    have key : fsqr (fpow (fsqr r) ((P + 1) / 4)) = fsqr r := by
      apply toZ_injective
      rw [toZ_fsqr, toZ_fpow _ (by decide +kernel), toZ_fsqr, ← pow_mul, ← pow_mul,
        show 2 * ((P + 1) / 4 * 2) = (P - 1) + 2 by decide +kernel, pow_add]
      by_cases h : toZ r = 0
      · simp [h]
      · rw [pow_P_sub_one h, one_mul]
    exact ⟨_, by simp only [rootFn, rootRef, key, (feq_iff _ _).mpr, if_true], key⟩
  · intro h
    simp only [rootFn, rootRef]
    rw [if_neg]
    intro hr
    exact h ⟨_, (feq_iff _ _).mp hr⟩

/-- A unit that answers one square with a root of its own choice, and otherwise as an honest unit, is honest. -/
theorem rootHonest_patched {base : RootUnit} {g r : Fq} (h : RootHonest (rootFn base)) (hr : fsqr r = g) :
    RootHonest (rootFn (.patched g (some r) base)) := by
  intro g'
  by_cases hg : g' = g
  · subst hg
    simp only [rootFn, (feq_iff _ _).mpr, if_true]
    exact ⟨fun _ => ⟨r, rfl, hr⟩, fun hn => absurd ⟨r, hr⟩ hn⟩
  · simpa only [rootFn, feq_iff, hg, if_false] using h g'

end Sys2Proof.Machine
end

