-- ==== Sys2Proof/Laws/State.lean ====
section
/-! SUPPORT. One lemma for each field of `State` and each update of it, so that no later proof unfolds a record update;
then reading after writing in the register and block files.  The proofs read `(rfl)`, not `rfl`, so that `simp` rewrites with
the lemma and never asks the kernel to unfold the states it stands between. -/

namespace Sys2Proof.Machine

@[simp] theorem State.writeBits_f (s : State) (r : FieldReg) (bits : FieldBits) : (s.writeBits r bits).f = s.f.set r bits := (rfl)
@[simp] theorem State.writeBits_vf (s : State) (r : FieldReg) (bits : FieldBits) : (s.writeBits r bits).vf = s.vf.set r true := (rfl)
@[simp] theorem State.writeBits_ib (s : State) (r : FieldReg) (bits : FieldBits) : (s.writeBits r bits).ib = s.ib := (rfl)
@[simp] theorem State.writeBits_vb (s : State) (r : FieldReg) (bits : FieldBits) : (s.writeBits r bits).vb = s.vb := (rfl)
@[simp] theorem State.writeBits_inf (s : State) (r : FieldReg) (bits : FieldBits) : (s.writeBits r bits).inf = s.inf := (rfl)
@[simp] theorem State.writeBits_flt (s : State) (r : FieldReg) (bits : FieldBits) : (s.writeBits r bits).flt = s.flt := (rfl)
@[simp] theorem State.writeBits_cause (s : State) (r : FieldReg) (bits : FieldBits) : (s.writeBits r bits).cause = s.cause := (rfl)
@[simp] theorem State.writeBits_cfg (s : State) (r : FieldReg) (bits : FieldBits) : (s.writeBits r bits).cfg = s.cfg := (rfl)
@[simp] theorem State.writeBits_draws (s : State) (r : FieldReg) (bits : FieldBits) : (s.writeBits r bits).draws = s.draws := (rfl)
@[simp] theorem State.writeBits_pending (s : State) (r : FieldReg) (bits : FieldBits) : (s.writeBits r bits).pending = s.pending := (rfl)
@[simp] theorem State.writeBits_response (s : State) (r : FieldReg) (bits : FieldBits) : (s.writeBits r bits).response = s.response := (rfl)

@[simp] theorem State.writeReg_f (s : State) (r : FieldReg) (v : Fq) : (s.writeReg r v).f = s.f.set r (BitVec.ofNat 256 v.val) := (rfl)
@[simp] theorem State.writeReg_vf (s : State) (r : FieldReg) (v : Fq) : (s.writeReg r v).vf = s.vf.set r true := (rfl)
@[simp] theorem State.writeReg_ib (s : State) (r : FieldReg) (v : Fq) : (s.writeReg r v).ib = s.ib := (rfl)
@[simp] theorem State.writeReg_vb (s : State) (r : FieldReg) (v : Fq) : (s.writeReg r v).vb = s.vb := (rfl)
@[simp] theorem State.writeReg_inf (s : State) (r : FieldReg) (v : Fq) : (s.writeReg r v).inf = s.inf := (rfl)
@[simp] theorem State.writeReg_flt (s : State) (r : FieldReg) (v : Fq) : (s.writeReg r v).flt = s.flt := (rfl)
@[simp] theorem State.writeReg_cause (s : State) (r : FieldReg) (v : Fq) : (s.writeReg r v).cause = s.cause := (rfl)
@[simp] theorem State.writeReg_cfg (s : State) (r : FieldReg) (v : Fq) : (s.writeReg r v).cfg = s.cfg := (rfl)
@[simp] theorem State.writeReg_draws (s : State) (r : FieldReg) (v : Fq) : (s.writeReg r v).draws = s.draws := (rfl)
@[simp] theorem State.writeReg_pending (s : State) (r : FieldReg) (v : Fq) : (s.writeReg r v).pending = s.pending := (rfl)
@[simp] theorem State.writeReg_response (s : State) (r : FieldReg) (v : Fq) : (s.writeReg r v).response = s.response := (rfl)

@[simp] theorem State.writeBlock_f (s : State) (b : BlockIx) (block : Block) : (s.writeBlock b block).f = s.f := (rfl)
@[simp] theorem State.writeBlock_vf (s : State) (b : BlockIx) (block : Block) : (s.writeBlock b block).vf = s.vf := (rfl)
@[simp] theorem State.writeBlock_ib (s : State) (b : BlockIx) (block : Block) : (s.writeBlock b block).ib = s.ib.set b block := (rfl)
@[simp] theorem State.writeBlock_vb (s : State) (b : BlockIx) (block : Block) : (s.writeBlock b block).vb = s.vb.set b true := (rfl)
@[simp] theorem State.writeBlock_inf (s : State) (b : BlockIx) (block : Block) : (s.writeBlock b block).inf = s.inf := (rfl)
@[simp] theorem State.writeBlock_flt (s : State) (b : BlockIx) (block : Block) : (s.writeBlock b block).flt = s.flt := (rfl)
@[simp] theorem State.writeBlock_cause (s : State) (b : BlockIx) (block : Block) : (s.writeBlock b block).cause = s.cause := (rfl)
@[simp] theorem State.writeBlock_cfg (s : State) (b : BlockIx) (block : Block) : (s.writeBlock b block).cfg = s.cfg := (rfl)
@[simp] theorem State.writeBlock_draws (s : State) (b : BlockIx) (block : Block) : (s.writeBlock b block).draws = s.draws := (rfl)
@[simp] theorem State.writeBlock_pending (s : State) (b : BlockIx) (block : Block) : (s.writeBlock b block).pending = s.pending := (rfl)
@[simp] theorem State.writeBlock_response (s : State) (b : BlockIx) (block : Block) : (s.writeBlock b block).response = s.response := (rfl)

@[simp] theorem State.clearInf_f (s : State) : s.clearInf.f = s.f := (rfl)
@[simp] theorem State.clearInf_vf (s : State) : s.clearInf.vf = s.vf := (rfl)
@[simp] theorem State.clearInf_ib (s : State) : s.clearInf.ib = s.ib := (rfl)
@[simp] theorem State.clearInf_vb (s : State) : s.clearInf.vb = s.vb := (rfl)
@[simp] theorem State.clearInf_inf (s : State) : s.clearInf.inf = false := (rfl)
@[simp] theorem State.clearInf_flt (s : State) : s.clearInf.flt = s.flt := (rfl)
@[simp] theorem State.clearInf_cause (s : State) : s.clearInf.cause = s.cause := (rfl)
@[simp] theorem State.clearInf_cfg (s : State) : s.clearInf.cfg = s.cfg := (rfl)
@[simp] theorem State.clearInf_draws (s : State) : s.clearInf.draws = s.draws := (rfl)
@[simp] theorem State.clearInf_pending (s : State) : s.clearInf.pending = s.pending := (rfl)
@[simp] theorem State.clearInf_response (s : State) : s.clearInf.response = s.response := (rfl)

@[simp] theorem State.respond_f (s : State) (ok : Bool) (data : ResponseData) : (s.respond ok data).f = s.f := (rfl)
@[simp] theorem State.respond_vf (s : State) (ok : Bool) (data : ResponseData) : (s.respond ok data).vf = s.vf := (rfl)
@[simp] theorem State.respond_ib (s : State) (ok : Bool) (data : ResponseData) : (s.respond ok data).ib = s.ib := (rfl)
@[simp] theorem State.respond_vb (s : State) (ok : Bool) (data : ResponseData) : (s.respond ok data).vb = s.vb := (rfl)
@[simp] theorem State.respond_inf (s : State) (ok : Bool) (data : ResponseData) : (s.respond ok data).inf = s.inf := (rfl)
@[simp] theorem State.respond_flt (s : State) (ok : Bool) (data : ResponseData) : (s.respond ok data).flt = s.flt := (rfl)
@[simp] theorem State.respond_cause (s : State) (ok : Bool) (data : ResponseData) : (s.respond ok data).cause = s.cause := (rfl)
@[simp] theorem State.respond_cfg (s : State) (ok : Bool) (data : ResponseData) : (s.respond ok data).cfg = s.cfg := (rfl)
@[simp] theorem State.respond_draws (s : State) (ok : Bool) (data : ResponseData) : (s.respond ok data).draws = s.draws := (rfl)
@[simp] theorem State.respond_pending (s : State) (ok : Bool) (data : ResponseData) : (s.respond ok data).pending = s.pending := (rfl)
@[simp] theorem State.respond_response (s : State) (ok : Bool) (data : ResponseData) : (s.respond ok data).response = some ⟨ok, data⟩ := (rfl)

@[simp] theorem State.respondOk_f (s : State) : (s.respondOk).f = s.f := (rfl)
@[simp] theorem State.respondOk_vf (s : State) : (s.respondOk).vf = s.vf := (rfl)
@[simp] theorem State.respondOk_ib (s : State) : (s.respondOk).ib = s.ib := (rfl)
@[simp] theorem State.respondOk_vb (s : State) : (s.respondOk).vb = s.vb := (rfl)
@[simp] theorem State.respondOk_inf (s : State) : (s.respondOk).inf = s.inf := (rfl)
@[simp] theorem State.respondOk_flt (s : State) : (s.respondOk).flt = s.flt := (rfl)
@[simp] theorem State.respondOk_cause (s : State) : (s.respondOk).cause = s.cause := (rfl)
@[simp] theorem State.respondOk_cfg (s : State) : (s.respondOk).cfg = s.cfg := (rfl)
@[simp] theorem State.respondOk_draws (s : State) : (s.respondOk).draws = s.draws := (rfl)
@[simp] theorem State.respondOk_pending (s : State) : (s.respondOk).pending = s.pending := (rfl)
@[simp] theorem State.respondOk_response (s : State) : (s.respondOk).response = some ⟨true, .none⟩ := (rfl)

@[simp] theorem State.refuse_f (s : State) : (s.refuse).f = s.f := (rfl)
@[simp] theorem State.refuse_vf (s : State) : (s.refuse).vf = s.vf := (rfl)
@[simp] theorem State.refuse_ib (s : State) : (s.refuse).ib = s.ib := (rfl)
@[simp] theorem State.refuse_vb (s : State) : (s.refuse).vb = s.vb := (rfl)
@[simp] theorem State.refuse_inf (s : State) : (s.refuse).inf = s.inf := (rfl)
@[simp] theorem State.refuse_flt (s : State) : (s.refuse).flt = s.flt := (rfl)
@[simp] theorem State.refuse_cause (s : State) : (s.refuse).cause = s.cause := (rfl)
@[simp] theorem State.refuse_cfg (s : State) : (s.refuse).cfg = s.cfg := (rfl)
@[simp] theorem State.refuse_draws (s : State) : (s.refuse).draws = s.draws := (rfl)
@[simp] theorem State.refuse_pending (s : State) : (s.refuse).pending = s.pending := (rfl)
@[simp] theorem State.refuse_response (s : State) : (s.refuse).response = some ⟨false, .none⟩ := (rfl)

@[simp] theorem State.invalidate_f (s : State) (r : FieldReg) : (s.invalidate r).f = s.f.set r (Config.unspecified s.draws) := (rfl)
@[simp] theorem State.invalidate_vf (s : State) (r : FieldReg) : (s.invalidate r).vf = s.vf.set r false := (rfl)
@[simp] theorem State.invalidate_ib (s : State) (r : FieldReg) : (s.invalidate r).ib = s.ib := (rfl)
@[simp] theorem State.invalidate_vb (s : State) (r : FieldReg) : (s.invalidate r).vb = s.vb := (rfl)
@[simp] theorem State.invalidate_inf (s : State) (r : FieldReg) : (s.invalidate r).inf = s.inf := (rfl)
@[simp] theorem State.invalidate_flt (s : State) (r : FieldReg) : (s.invalidate r).flt = s.flt := (rfl)
@[simp] theorem State.invalidate_cause (s : State) (r : FieldReg) : (s.invalidate r).cause = s.cause := (rfl)
@[simp] theorem State.invalidate_cfg (s : State) (r : FieldReg) : (s.invalidate r).cfg = s.cfg := (rfl)
@[simp] theorem State.invalidate_draws (s : State) (r : FieldReg) : (s.invalidate r).draws = s.draws + 1 := (rfl)
@[simp] theorem State.invalidate_pending (s : State) (r : FieldReg) : (s.invalidate r).pending = s.pending := (rfl)
@[simp] theorem State.invalidate_response (s : State) (r : FieldReg) : (s.invalidate r).response = s.response := (rfl)

@[simp] theorem State.resetMove_f (s : State) : (s.resetMove).f = FieldFile.all 0#256 := (rfl)
@[simp] theorem State.resetMove_vf (s : State) : (s.resetMove).vf = FieldFile.all false := (rfl)
@[simp] theorem State.resetMove_ib (s : State) : (s.resetMove).ib = State.reset.ib := (rfl)
@[simp] theorem State.resetMove_vb (s : State) : (s.resetMove).vb = ⟨false, false⟩ := (rfl)
@[simp] theorem State.resetMove_inf (s : State) : (s.resetMove).inf = false := (rfl)
@[simp] theorem State.resetMove_flt (s : State) : (s.resetMove).flt = false := (rfl)
@[simp] theorem State.resetMove_cause (s : State) : (s.resetMove).cause = 0#4 := (rfl)
@[simp] theorem State.resetMove_cfg (s : State) : (s.resetMove).cfg = s.cfg := (rfl)
@[simp] theorem State.resetMove_draws (s : State) : (s.resetMove).draws = s.draws := (rfl)
@[simp] theorem State.resetMove_pending (s : State) : (s.resetMove).pending = s.pending := (rfl)
@[simp] theorem State.resetMove_response (s : State) : (s.resetMove).response = none := (rfl)

@[simp] theorem State.present_f (s : State) (r : Request) : (s.present r).f = s.f := (rfl)
@[simp] theorem State.present_vf (s : State) (r : Request) : (s.present r).vf = s.vf := (rfl)
@[simp] theorem State.present_ib (s : State) (r : Request) : (s.present r).ib = s.ib := (rfl)
@[simp] theorem State.present_vb (s : State) (r : Request) : (s.present r).vb = s.vb := (rfl)
@[simp] theorem State.present_inf (s : State) (r : Request) : (s.present r).inf = s.inf := (rfl)
@[simp] theorem State.present_flt (s : State) (r : Request) : (s.present r).flt = s.flt := (rfl)
@[simp] theorem State.present_cause (s : State) (r : Request) : (s.present r).cause = s.cause := (rfl)
@[simp] theorem State.present_cfg (s : State) (r : Request) : (s.present r).cfg = s.cfg := (rfl)
@[simp] theorem State.present_draws (s : State) (r : Request) : (s.present r).draws = s.draws := (rfl)
@[simp] theorem State.present_pending (s : State) (r : Request) : (s.present r).pending = .request r :: s.pending := (rfl)
@[simp] theorem State.present_response (s : State) (r : Request) : (s.present r).response = s.response := (rfl)

@[simp] theorem writePacked_ib (u0 u1 : Fq) (s : State) : (writePacked u0 u1 s).ib = s.ib := by
  simp [writePacked]
@[simp] theorem writePacked_vb (u0 u1 : Fq) (s : State) : (writePacked u0 u1 s).vb = s.vb := by
  simp [writePacked]
@[simp] theorem writePacked_flt (u0 u1 : Fq) (s : State) : (writePacked u0 u1 s).flt = s.flt := by
  simp [writePacked]
@[simp] theorem writePacked_cause (u0 u1 : Fq) (s : State) : (writePacked u0 u1 s).cause = s.cause := by
  simp [writePacked]
@[simp] theorem writePacked_cfg (u0 u1 : Fq) (s : State) : (writePacked u0 u1 s).cfg = s.cfg := by
  simp [writePacked]
@[simp] theorem writePacked_draws (u0 u1 : Fq) (s : State) : (writePacked u0 u1 s).draws = s.draws := by
  simp [writePacked]
@[simp] theorem writePacked_pending (u0 u1 : Fq) (s : State) : (writePacked u0 u1 s).pending = s.pending := by
  simp [writePacked]
@[simp] theorem writePacked_response (u0 u1 : Fq) (s : State) : (writePacked u0 u1 s).response = s.response := by
  simp [writePacked]
@[simp] theorem writePacked_inf (u0 u1 : Fq) (s : State) : (writePacked u0 u1 s).inf = false := by
  simp [writePacked]

@[simp] theorem writeMapped_ib (u x y : Fq) (s : State) : (writeMapped u x y s).ib = s.ib := by
  simp [writeMapped]
@[simp] theorem writeMapped_vb (u x y : Fq) (s : State) : (writeMapped u x y s).vb = s.vb := by
  simp [writeMapped]
@[simp] theorem writeMapped_flt (u x y : Fq) (s : State) : (writeMapped u x y s).flt = s.flt := by
  simp [writeMapped]
@[simp] theorem writeMapped_cause (u x y : Fq) (s : State) : (writeMapped u x y s).cause = s.cause := by
  simp [writeMapped]
@[simp] theorem writeMapped_cfg (u x y : Fq) (s : State) : (writeMapped u x y s).cfg = s.cfg := by
  simp [writeMapped]
@[simp] theorem writeMapped_draws (u x y : Fq) (s : State) : (writeMapped u x y s).draws = s.draws := by
  simp [writeMapped]
@[simp] theorem writeMapped_pending (u x y : Fq) (s : State) : (writeMapped u x y s).pending = s.pending := by
  simp [writeMapped]
@[simp] theorem writeMapped_response (u x y : Fq) (s : State) : (writeMapped u x y s).response = s.response := by
  simp [writeMapped]
@[simp] theorem writeMapped_inf (u x y : Fq) (s : State) : (writeMapped u x y s).inf = false := by
  simp [writeMapped]

theorem writePacked_vf (u0 u1 : Fq) (s : State) :
    (writePacked u0 u1 s).vf = { s.vf with u0 := true, u1 := true, x := true, y := true } := by
  simp [writePacked, FieldFile.set]

theorem writePacked_f (u0 u1 : Fq) (s : State) :
    (writePacked u0 u1 s).f = { s.f with
      u0 := BitVec.ofNat 256 u0.val, u1 := BitVec.ofNat 256 u1.val
      x := BitVec.ofNat 256 u0.val, y := BitVec.ofNat 256 u1.val } := by
  simp [writePacked, FieldFile.set]

theorem writeMapped_vf (u x y : Fq) (s : State) :
    (writeMapped u x y s).vf = ⟨s.vf.u0, s.vf.u1, true, true, true, true, true, true⟩ := by
  simp [writeMapped, FieldFile.set]

theorem writeMapped_f (u x y : Fq) (s : State) :
    (writeMapped u x y s).f =
      ⟨s.f.u0, s.f.u1, BitVec.ofNat 256 (mapX1 s.cfg u).val, BitVec.ofNat 256 (mapX2 s.cfg u).val,
        BitVec.ofNat 256 (curveRhs s.cfg (mapX1 s.cfg u)).val,
        BitVec.ofNat 256 (curveRhs s.cfg (mapX2 s.cfg u)).val,
        BitVec.ofNat 256 x.val, BitVec.ofNat 256 (signFixup u y).val⟩ := by
  simp [writeMapped, FieldFile.set]

@[simp] theorem FieldFile.get_all {α : Type} (a : α) (r : FieldReg) : (FieldFile.all a).get r = a := by
  cases r <;> rfl

theorem FieldFile.get_set {α : Type} (file : FieldFile α) (r r' : FieldReg) (a : α) :
    (file.set r a).get r' = if r' = r then a else file.get r' := by
  cases r <;> cases r' <;> rfl

@[simp] theorem FieldFile.get_set_self {α : Type} (file : FieldFile α) (r : FieldReg) (a : α) :
    (file.set r a).get r = a := by
  cases r <;> rfl

@[simp] theorem FieldFile.get_set_of_ne {α : Type} (file : FieldFile α) {r r' : FieldReg} (h : r' ≠ r) (a : α) :
    (file.set r a).get r' = file.get r' := by
  rw [FieldFile.get_set, if_neg h]

@[simp] theorem FieldFile.set_set {α : Type} (file : FieldFile α) (r : FieldReg) (a b : α) :
    (file.set r a).set r b = file.set r b := by
  cases r <;> rfl

theorem FieldFile.ext_get {α : Type} {file file' : FieldFile α} (h : ∀ r, file.get r = file'.get r) :
    file = file' := by
  cases file; cases file'
  simp only [FieldFile.mk.injEq]
  exact ⟨h .u0, h .u1, h .x1, h .x2, h .gx1, h .gx2, h .x, h .y⟩

theorem BlockFile.get_set {α : Type} (file : BlockFile α) (b b' : BlockIx) (a : α) :
    (file.set b a).get b' = if b' = b then a else file.get b' := by
  cases b <;> cases b' <;> rfl

@[simp] theorem BlockFile.get_set_self {α : Type} (file : BlockFile α) (b : BlockIx) (a : α) :
    (file.set b a).get b = a := by
  cases b <;> rfl

@[simp] theorem BlockFile.get_set_of_ne {α : Type} (file : BlockFile α) {b b' : BlockIx} (h : b' ≠ b) (a : α) :
    (file.set b a).get b' = file.get b' := by
  rw [BlockFile.get_set, if_neg h]

@[simp] theorem BlockFile.set_set {α : Type} (file : BlockFile α) (b : BlockIx) (a a' : α) :
    (file.set b a).set b a' = file.set b a' := by
  cases b <;> rfl

end Sys2Proof.Machine
end

