-- ==== Sys2Proof/Laws/Ops.lean ====
section
/-! SUPPORT. What each shared operation can do, said once: the fault entry (R160), the readiness test (R163), the sources
(R24), the host's moves (R40) and the equation of each request's meaning in `READY` and in `FAULTED`. -/

namespace Sys2Proof.Machine

variable (s : State) (dests : List FieldReg)

@[simp] theorem State.invalidateAll_nil : s.invalidateAll [] = s := (rfl)

@[simp] theorem State.invalidateAll_cons (r : FieldReg) :
    s.invalidateAll (r :: dests) = (s.invalidate r).invalidateAll dests := (rfl)

/-- Invalidating destinations changes their contents, their valid bits and the draw counter, nothing else. -/
theorem State.invalidateAll_rest :
    (s.invalidateAll dests).ib = s.ib ∧ (s.invalidateAll dests).vb = s.vb ∧
    (s.invalidateAll dests).inf = s.inf ∧ (s.invalidateAll dests).flt = s.flt ∧
    (s.invalidateAll dests).cause = s.cause ∧ (s.invalidateAll dests).cfg = s.cfg ∧
    (s.invalidateAll dests).pending = s.pending ∧ (s.invalidateAll dests).response = s.response := by
  induction dests generalizing s with
  | nil => simp
  | cons r rs ih => simpa using ih (s.invalidate r)

theorem State.invalidateAll_draws : (s.invalidateAll dests).draws = s.draws + dests.length := by
  induction dests generalizing s with
  | nil => simp
  | cons r rs ih => simp [ih (s.invalidate r)]; omega

/-- A register that is no destination keeps its contents and its valid bit. -/
theorem State.invalidateAll_not_mem {r : FieldReg} (h : r ∉ dests) :
    (s.invalidateAll dests).f.get r = s.f.get r ∧ (s.invalidateAll dests).vf.get r = s.vf.get r := by
  induction dests generalizing s with
  | nil => simp
  | cons r' rs ih =>
    obtain ⟨hne, hmem⟩ : r ≠ r' ∧ r ∉ rs := by simpa using h
    simpa [hne] using ih (s.invalidate r') hmem

/-- A destination is invalid afterwards. -/
theorem State.invalidateAll_mem {r : FieldReg} (h : r ∈ dests) : (s.invalidateAll dests).vf.get r = false := by
  induction dests generalizing s with
  | nil => cases h
  | cons r' rs ih =>
    by_cases hrs : r ∈ rs
    · exact ih (s.invalidate r') hrs
    · obtain rfl : r = r' := by simpa [hrs] using h
      simp [(State.invalidateAll_not_mem (s.invalidate r) rs hrs).2]

variable (c : FaultCode)

@[simp] theorem State.faultEntry_flt : (s.faultEntry c dests).flt = true := (rfl)
@[simp] theorem State.faultEntry_cause : (s.faultEntry c dests).cause = c.code := (rfl)
@[simp] theorem State.faultEntry_response : (s.faultEntry c dests).response = some ⟨false, .none⟩ := (rfl)
@[simp] theorem State.faultEntry_f : (s.faultEntry c dests).f = (s.invalidateAll dests).f := (rfl)
@[simp] theorem State.faultEntry_vf : (s.faultEntry c dests).vf = (s.invalidateAll dests).vf := (rfl)
@[simp] theorem State.faultEntry_ib : (s.faultEntry c dests).ib = s.ib := (s.invalidateAll_rest dests).1
@[simp] theorem State.faultEntry_vb : (s.faultEntry c dests).vb = s.vb := (s.invalidateAll_rest dests).2.1
@[simp] theorem State.faultEntry_inf : (s.faultEntry c dests).inf = s.inf := (s.invalidateAll_rest dests).2.2.1
@[simp] theorem State.faultEntry_cfg : (s.faultEntry c dests).cfg = s.cfg :=
  (s.invalidateAll_rest dests).2.2.2.2.2.1
@[simp] theorem State.faultEntry_pending : (s.faultEntry c dests).pending = s.pending :=
  (s.invalidateAll_rest dests).2.2.2.2.2.2.1
@[simp] theorem State.faultEntry_draws : (s.faultEntry c dests).draws = s.draws + dests.length :=
  s.invalidateAll_draws dests

/-- An illegal request in `READY` sets `FLT`, `CAUSE` and the response, and nothing else. -/
theorem State.faultEntry_nil :
    s.faultEntry c [] = { s with flt := true, cause := c.code, response := some ⟨false, .none⟩ } := (rfl)

/-- The code of a fault is one of 1 to 5 (R150). -/
theorem FaultCode.code_range : 1 ≤ c.code.toNat ∧ c.code.toNat ≤ 5 := by
  cases c <;> decide

variable {s} {run : State → State}

/-- In `READY` the request runs. -/
theorem State.ifReady_ready (h : s.flt = false) : s.ifReady run = run s := by
  simp [State.ifReady, h]

/-- In `FAULTED` the request is refused. -/
theorem State.ifReady_faulted (h : s.flt = true) : s.ifReady run = s.refuse := by
  simp [State.ifReady, h]

theorem State.source_valid {r : FieldReg} (h : s.vf.get r = true) :
    s.source r = some (reduce (s.f.get r).toNat) := by
  simp [State.source, h]

theorem State.source_invalid {r : FieldReg} (h : s.vf.get r = false) : s.source r = none := by
  simp [State.source, h]

theorem State.sourceBlock_valid {b : BlockIx} (h : s.vb.get b = true) : s.sourceBlock b = some (s.ib.get b) := by
  simp [State.sourceBlock, h]

theorem State.sourceBlock_invalid {b : BlockIx} (h : s.vb.get b = false) : s.sourceBlock b = none := by
  simp [State.sourceBlock, h]

theorem State.takeMove_nil (h : s.pending = []) : s.takeMove = none := by
  simp [State.takeMove, h]

theorem State.takeMove_cons {m : HostMove} {rest : List HostMove} (h : s.pending = m :: rest) :
    s.takeMove = some (m, { s with pending := rest }) := by
  simp [State.takeMove, h]

/-- What a step can be: nothing pending, a reset, an illegal request, or an instruction. -/
theorem step_cases {t : State} (h : step s = .next t) :
    (s.pending = [] ∧ t = s) ∨
    (∃ rest, s.pending = .reset :: rest ∧ t = { s with pending := rest }.resetMove) ∨
    (∃ r rest e, s.pending = .request r :: rest ∧ decode r = .error e ∧
      t = { s with pending := rest }.illegalRequest) ∨
    (∃ r rest i, s.pending = .request r :: rest ∧ decode r = .ok i ∧
      exec i { s with pending := rest } = .next t) := by
  rcases hp : s.pending with _ | ⟨_ | _, rest⟩
  · simp only [step, State.takeMove_nil hp, Host.Outcome.next.injEq] at h
    exact .inl ⟨rfl, h.symm⟩
  · rename_i r
    simp only [step, State.takeMove_cons hp] at h
    rcases hd : decode r with e | i
    · simp only [hd, Host.Outcome.next.injEq] at h
      exact .inr (.inr (.inl ⟨r, rest, e, rfl, hd, h.symm⟩))
    · simp only [hd] at h
      exact .inr (.inr (.inr ⟨r, rest, i, rfl, hd, h⟩))
  · simp only [step, State.takeMove_cons hp, Host.Outcome.next.injEq] at h
    exact .inr (.inl ⟨rest, rfl, h.symm⟩)

/-- The state an instruction leads to: every meaning answers a next state, this one. -/
def execState (i : Instr) (s : State) : State :=
  match i with
  | .wrb b payload => s.ifReady fun t => (t.writeBlock b (blockOfPayload payload)).respondOk
  | .wrf r payload => s.ifReady fun t =>
      if notHostWritable r then t.faultEntry .illegalReq []
      else if P ≤ payload.toNat then t.faultEntry .range [r]
      else (t.writeBits r payload).respondOk
  | .rdf r =>
      if s.vf.get r then s.respond true (.register (readout true (s.f.get r)))
      else { s with draws := s.draws + 1 }.respond true
        (.register (readout false (Config.unspecified s.draws)))
  | .rds => s.respond true (.status (statusWord s))
  | .dec b => s.ifReady fun t =>
      match t.sourceBlock b with
      | none => t.faultEntry .srcInvalid [decDest b]
      | some block => (t.writeReg (decDest b) (decode48 block)).respondOk
  | .h2f => s.ifReady fun t =>
      match t.sourceBlock .ib0, t.sourceBlock .ib1 with
      | some b0, some b1 => (writePacked (decode48 b0) (decode48 b1) t).respondOk
      | _, _ => t.faultEntry .srcInvalid h2fDests
  | .map src => s.ifReady fun t =>
      match t.source (mapSource src) with
      | none => t.faultEntry .srcInvalid mapDests
      | some u =>
        match mapSelect t.cfg u with
        | .ok (x, y) => (writeMapped u x y t).respondOk
        | .error c => t.faultEntry c mapDests
  | .sel => s.ifReady fun t =>
      match t.source .x1, t.source .x2, t.source .gx1, t.source .gx2 with
      | some x1, some x2, some gx1, some gx2 =>
        match selectXY (rootFn t.cfg.root) x1 x2 gx1 gx2 with
        | .ok (x, y) => ((t.writeReg .x x).writeReg .y y).respondOk
        | .error c => t.faultEntry c selDests
      | _, _, _, _ => t.faultEntry .srcInvalid selDests

/-- `exec` always answers a next state, and `execState` names it. -/
theorem exec_eq (i : Instr) : exec i s = .next (execState i s) := by
  cases i <;> rfl

/-- An answered instruction led to `execState`. -/
theorem execState_of_next {i : Instr} {t : State} (h : exec i s = .next t) : t = execState i s := by
  rw [exec_eq] at h
  exact (Host.Outcome.next.inj h).symm

end Sys2Proof.Machine
end

