-- ==== Sys2Proof/Laws/PerInstr.lean ====
section
/-! SUPPORT. The fields of an encoded request word, and facts about every instruction as syntax, one lemma for each
constructor. -/

namespace Sys2Proof

/-- The opcode field of an encoded word is the instruction's opcode (R60). -/
theorem opField_word (i : Instr) : opField i.word = i.op := by
  ext k hk
  simp only [opField, Instr.word, BitVec.getElem_extractLsb', BitVec.getLsbD_cast, BitVec.getLsbD_append]
  rw [if_neg (by omega), if_neg (by omega), ← BitVec.getLsbD_eq_getElem]
  congr 1; omega

/-- The reserved field of an encoded word is 0 (R60). -/
theorem zeroField_word (i : Instr) : zeroField i.word = 0#4 := by
  ext k hk
  simp only [zeroField, Instr.word, BitVec.getElem_extractLsb', BitVec.getLsbD_cast, BitVec.getLsbD_append]
  rw [if_neg (by omega), if_pos (by omega)]
  simp

/-- The index field of an encoded word is the instruction's index operand (R60, R61). -/
theorem idxField_word (i : Instr) : idxField i.word = i.idx := by
  ext k hk
  simp only [idxField, Instr.word, BitVec.getElem_extractLsb', BitVec.getLsbD_cast, BitVec.getLsbD_append]
  rw [if_pos (by omega), ← BitVec.getLsbD_eq_getElem]
  congr 1; omega

end Sys2Proof

namespace Sys2Proof.Laws.ReservedNibble

/-- R60: the reserved field of the request word an instruction encodes to is 0. -/
def Statement (i : Instr) : Prop := zeroField (encode i).iw = 0#4

theorem wrb (b : BlockIx) (payload : PayloadBits) : Statement (.wrb b payload) := zeroField_word _

theorem wrf (r : FieldReg) (payload : FieldBits) : Statement (.wrf r payload) := zeroField_word _

theorem rdf (r : FieldReg) : Statement (.rdf r) := zeroField_word _

theorem rds : Statement .rds := zeroField_word _

theorem dec (b : BlockIx) : Statement (.dec b) := zeroField_word _

theorem h2f : Statement .h2f := zeroField_word _

theorem map (src : MapSrc) : Statement (.map src) := zeroField_word _

theorem sel : Statement .sel := zeroField_word _

end Sys2Proof.Laws.ReservedNibble
end

