-- ==== Sys2Proof/Tests/Slice0.lean ====
section
/-! SUPPORT. The model's own tests: the check of WellFormed, one word of every request decoded, one or two steps of every
request on small states with results from spec/95_test_vectors.md, and a witness for the hypotheses of each statement. -/

namespace Sys2Proof.Tests
open Sys2Proof.Machine

-- One theorem at a time: a thread that waits for the kernel in each of these theorems at once takes too much memory.
set_option Elab.async false

/-! ## Helpers -/

/-- A field element from a number below `P`. -/
def fq (n : Nat) : Fq := reduce n

/-- The reset state of an instance with the default constants and the given root unit. -/
def fresh (root : RootUnit) : State := { State.reset with cfg := defaultConfig root }

/-- A fresh instance with values written into registers. -/
def withRegs (root : RootUnit) (regs : List (FieldReg × Nat)) : State :=
  regs.foldl (fun s rv => s.writeReg rv.1 (fq rv.2)) (fresh root)

/-- A fresh instance with both blocks of program P1 written. -/
def withBlocks : State :=
  ((fresh .reference).writeBlock .ib0 (blockOfPayload
      (BitVec.ofNat 384 0x000102030405060708090a0b0c0d0e0f101112131415161718191a1b1c1d1e1f202122232425262728292a2b2c2d2e2f))).writeBlock
    .ib1 (blockOfPayload
      (BitVec.ofNat 384 0x303132333435363738393a3b3c3d3e3f404142434445464748494a4b4c4d4e4f505152535455565758595a5b5c5d5e5f))

/-- The same state in `FAULTED` with cause 4. -/
def faulted : State := { fresh .reference with flt := true, cause := 4#4 }

/-- The request of a word without payload. -/
def req (iw : ReqWord) : Request := ⟨iw, BitVec.ofNat 384 0⟩

/-- `s` with requests of these words to come. -/
def withWords (s : State) (ws : List ReqWord) : State := { s with pending := ws.map (fun w => .request (req w)) }

/-- The selector's example S1: `LDC 123, 200, 4, 5`, for a given root unit. -/
def s1State (root : RootUnit) : State := withRegs root [(.x1, 123), (.x2, 200), (.gx1, 4), (.gx2, 5)]

/-- The root unit of Q12: `ROOT(5) = some 3`, `ROOT(4) = none`. -/
def lyingUnit : RootUnit := .patched (fq 5) (some (fq 3)) (.patched (fq 4) none .reference)

/-! ## WellFormed: the one check refuses -/

theorem test_wellFormed_refuses_wrf_x : ¬ (Instr.wrf .x 0#256).WellFormed := by decide
theorem test_wellFormed_refuses_wrf_y : ¬ (Instr.wrf .y 0#256).WellFormed := by decide
theorem test_wellFormed_wrf_gx2 : (Instr.wrf .gx2 0#256).WellFormed := by decide

/-! ## Decoding: words written out from R60 and R62 -/

theorem test_decode_wrb : decodeTableWord 16 0b0000000100000000 = some (.wrb .ib0 0#384) := by decide +kernel
theorem test_decode_wrf : decodeTableWord 16 0b0000001000000011 = some (.wrf .x2 0#256) := by decide +kernel
theorem test_decode_rdf : decodeTableWord 16 0b0000001100000110 = some (.rdf .x) := by decide +kernel
theorem test_decode_rds : decodeTableWord 16 0b0000010000000000 = some .rds := by decide +kernel
theorem test_decode_dec : decodeTableWord 16 0b0001000000000000 = some (.dec .ib0) := by decide +kernel
theorem test_decode_h2f : decodeTableWord 16 0b0001000100000000 = some .h2f := by decide +kernel
theorem test_decode_map : decodeTableWord 16 0b0001001000000000 = some (.map .fromU0) := by decide +kernel
theorem test_decode_sel : decodeTableWord 16 0b0001001100000000 = some .sel := by decide +kernel

/-- R66, section 2.6 of the vectors: words that are illegal, and why. -/
theorem test_decode_illegal :
    [0x0102#16, 0x0206#16, 0x0207#16, 0x0308#16, 0x030f#16, 0x0401#16, 0x1002#16, 0x1101#16, 0x1202#16,
     0x1301#16].all (fun w => decode (req w) == .error .indexOutOfRange) = true ∧
    [0x1210#16, 0x13f0#16, 0x0010#16, 0xffff#16].all
      (fun w => decode (req w) == .error .reservedNibble) = true ∧
    [0x0000#16, 0x0500#16, 0x0f00#16, 0x1400#16, 0x2000#16].all
      (fun w => decode (req w) == .error .unassignedOp) = true := by decide +kernel

/-- R60, R62: the words the encoder gives. -/
theorem test_encode : ([.wrb .ib1 0#384, .wrf .gx2 0#256, .rdf .y, .rds, .dec .ib1, .h2f, .map .fromU1, .sel] : List Instr).map
    (fun i => (encode i).iw) =
    [0x0101#16, 0x0205#16, 0x0307#16, 0x0400#16, 0x1001#16, 0x1100#16, 0x1201#16, 0x1300#16] := by decide +kernel

/-- R69: the four examples of the rule's last sentence. -/
theorem test_assemble :
    assemble ['W', 'R', 'F', ' ', 'X', '1', ',', ' ', '1', '2', '3'] = some ⟨0x0202#16, BitVec.ofNat 384 123⟩ ∧
    assemble ['M', 'A', 'P', ' ', '0'] = some (req 0x1200#16) ∧
    assemble ['R', 'D', 'F', ' ', 'Y', ' ', ';', ' ', 'y'] = some (req 0x0307#16) ∧
    assemble (['W', 'R', 'B', ' ', '1', ',', ' ', '0', 'x', '3', '0'] ++ List.replicate 94 '0') =
      some ⟨0x0101#16, BitVec.ofNat 384 (0x30 * 2 ^ 188 * 2 ^ 188)⟩ := by decide +kernel

/-! ## The field arithmetic, section 2.1 of the vectors -/

theorem test_field_corners : fadd (fq (P - 1)) (fq 2) = fq 1 ∧ fsub (fq 3) (fq 5) = fq (P - 2) ∧ fneg (fq 0) = fq 0 ∧
    fmul (fq (P - 1)) (fq (P - 1)) = fq 1 ∧ (fmul (fq (2 ^ 255)) (fq 2)).val = 0x1000003D1 ∧
    (fmul defaultZ defaultZ).val = 0x79 := by decide +kernel

theorem test_finv_of_11 : (finv (fq 11) (by decide +kernel)).val =
    0x45D1745D1745D1745D1745D1745D1745D1745D1745D1745D1745D1741745D06A := by decide +kernel

theorem test_fromBe32 : (fromBe32 (List.replicate 32 0xff#8)).val = 0x1000003d0 ∧
    fromBe32 (be32 (P + 5)) = fq 5 := by decide +kernel

theorem test_lsb : lsb (fq 0) = 0#1 ∧ lsb (fq 1) = 1#1 ∧ lsb (fq (P - 1)) = 0#1 ∧ lsb (fq 2) = 0#1 := by decide +kernel

theorem test_rootRef : rootRef (fq 4) = some (fq 2) ∧ rootRef (fq 5) = none ∧ rootRef (fq 9) = some (fq (P - 3)) ∧
    rootRef (fq 0) = some (fq 0) := by decide +kernel

theorem test_constNBA : (constNBA (defaultConfig .reference)).val =
    0x0BC56CEE718538B2A00C4DF5D3E87B0C6DF4FF98E82D74FDAA01D58E8D2345C3 := by decide +kernel

/-! ## The requests, one step each -/

/-- R100's example: byte `k` of the block is `k`. -/
theorem test_wrb : (execState (.wrb .ib0 (BitVec.ofNat 384 0x000102030405060708090a0b0c0d0e0f101112131415161718191a1b1c1d1e1f202122232425262728292a2b2c2d2e2f))
    (fresh .reference)).ib.ib0.toList = (List.range 48).map (BitVec.ofNat 8) := by decide +kernel

/-- R101's example, and the status word R103 gives after it. -/
theorem test_wrf : statusWord (execState (.wrf .gx1 4#256) (fresh .reference)) = 0x00100000#32 := by decide +kernel

/-- Vector X3. -/
theorem test_wrf_range : statusWord (execState (.wrf .u0 (BitVec.ofNat 256 P)) (fresh .reference)) = 0x00000021#32 := by
  decide +kernel

/-- R102's example. -/
theorem test_rdf : (execState (.rdf .gx1) (withRegs .reference [(.gx1, 4)])).response =
    some ⟨true, .register (BitVec.ofNat 257 (2 ^ 256 + 4))⟩ := by decide +kernel

/-- R103: after a `ROOT_XOR` fault of `MAP 0` (vector X9). -/
theorem test_rds : (execState .rds (execState (.map .fromU0) (withRegs .reference [(.u0, 0)]))).response =
    some ⟨true, .status 0x00010041#32⟩ := by decide +kernel

/-- R112's example. -/
theorem test_dec : (execState (.dec .ib0) withBlocks).f.u0.toNat =
    0x101112131415161718191A1B1C1E202227FED5AC835A3107DEB58C6329FFD56E := by decide +kernel

/-- Vector X5. -/
theorem test_dec_invalid :
    statusWord (execState (.dec .ib1) ((fresh .reference).writeBlock .ib0 State.reset.ib.ib0)) = 0x01000031#32 := by
  decide +kernel

/-- R113's example. -/
theorem test_h2f : (execState .h2f withBlocks).f.y.toNat =
    0x404142434445464748494A4B7C7E813A70471DF4CBA2795026FDD4AB4217ECCE ∧
    statusWord (execState .h2f withBlocks) = 0x03c30000#32 := by decide +kernel

/-- Vector M8: the sign is fixed by a negation. -/
theorem test_map : (execState (.map .fromU0) (withRegs .reference [(.u0, P - 1)])).f.y.toNat =
    0x079664df6b6cc18716bb260f0735567a5de8a9e73566efcdc3730d242daa84ac := by decide +kernel

/-- Vector M6: the zero denominator completes with the first candidate. -/
theorem test_map_zero_denominator :
    (execState (.map .fromU1) (withRegs .reference
      [(.u1, 0x331716177ec001cf0b2a4b9bf5c63274440235ba3dc0af713237ec866179d785)])).f.y.toNat =
    0xa8dbf539e583cee070b745f28e26e0f6582ea4dc8fbf9f647eac17e9f862e2a7 := by decide +kernel

/-- R146: doc00's two examples. -/
theorem test_sel :
    ((execState .sel (s1State .reference)).f.x, (execState .sel (s1State .reference)).f.y) = (123#256, 2#256) ∧
    (execState .sel (withRegs .reference [(.x1, 123), (.x2, 200), (.gx1, 5), (.gx2, 4)])).f.x = 200#256 := by
  decide +kernel

/-- Vectors Q12 (`INTEGRITY`) and X7 (`SRC_INVALID`). -/
theorem test_sel_faults :
    statusWord (execState .sel (withRegs lyingUnit [(.x1, 123), (.x2, 200), (.gx1, 5), (.gx2, 4)])) = 0x003c0051#32 ∧
    statusWord (execState .sel (withRegs .reference [(.x1, 123), (.x2, 200), (.gx1, 4)])) = 0x001c0031#32 := by
  decide +kernel

/-! ## Witnesses: states and operands that meet the hypotheses of each statement, a clause at a time -/

theorem witness_DecodeOfEncode : (Instr.wrf .gx2 (BitVec.ofNat 256 (P - 1))).WellFormed := by decide

theorem witness_DecodedInstructionEncodesToItsWord : decode (req 0x0307#16) = .ok (.rdf .y) := by decide +kernel

theorem witness_IllegalWordsFault : (withWords (fresh .reference) [0x0206#16]).flt = false ∧
    (withWords (fresh .reference) [0x0206#16]).pending = .request (req 0x0206#16) :: [] ∧
    decode (req 0x0206#16) = .error .indexOutOfRange := by decide +kernel

theorem witness_PayloadAndResponseBitOrder :
    decodeWord 0x0101#16 (BitVec.ofNat 384 5) = .ok (.wrb .ib1 (BitVec.ofNat 384 5)) ∧
    decodeWord 0x0205#16 (BitVec.ofNat 384 5) = .ok (.wrf .gx2 5#256) := by decide +kernel

theorem witness_StepRunsTheDecodedInstruction :
    (withWords (fresh .reference) [0x0400#16]).pending = .request (req 0x0400#16) :: [] ∧
    decode (req 0x0400#16) = .ok .rds := by decide +kernel

theorem witness_PresentedWordRunsNext : decodeTableWord 16 0x1300 = some .sel := by decide +kernel

theorem witness_IdleStepChangesNothing : State.reset.pending = [] := rfl

/-- A read, a refused word and an illegal word in `FAULTED`; a legal and an illegal word in `READY`. -/
theorem witness_SequencerStep :
    (withWords faulted [0x0307#16]).flt = true ∧ decode (req 0x0307#16) = .ok (.rdf .y) ∧
    decode (req 0x0400#16) = .ok .rds ∧ decode (req 0x1300#16) = .ok .sel ∧
    decode (req 0xffff#16) = .error .reservedNibble ∧ (withWords (fresh .reference) [0xffff#16]).flt = false := by
  decide +kernel

theorem witness_FaultedIsLeftOnlyByReset :
    faulted.flt = true ∧ step (withWords faulted [0x1300#16]) = .next { faulted with response := notOk } ∧
    (fresh .reference).flt = false ∧
    ∃ t, step (withWords (fresh .reference) [0xffff#16]) = .next t ∧ t.flt = true :=
  ⟨rfl, rfl, rfl, _, rfl, rfl⟩

theorem witness_ResetMoveGivesTheResetState :
    ({ faulted with pending := [.reset] } : State).pending = .reset :: [] := rfl

/-- Two different states with the same configuration and the host's reset as the next move. -/
theorem witness_ResetIsMemoryless :
    ({ faulted with pending := [.reset] } : State).pending = .reset :: [] ∧
    ({ withBlocks with pending := [.reset] } : State).pending = .reset :: [] ∧
    withBlocks.cfg = faulted.cfg ∧ withBlocks.flt ≠ faulted.flt := by decide +kernel

theorem witness_EveryRequestIsAnswered :
    (withWords (fresh .reference) [0xffff#16]).pending = .request (req 0xffff#16) :: [] := rfl

theorem witness_StepKeepsInvariant : faulted.Inv ∧ step faulted = .next faulted :=
  ⟨⟨fun r h => (by cases r <;> cases h), rfl, fun h => (by cases h), fun _ => (by decide)⟩, rfl⟩

theorem witness_ConfigurationNeverChanges : step State.reset = .next State.reset := rfl

/-- Two states that differ in what an invalid register holds. -/
theorem witness_InvalidContentsAreInvisible :
    State.reset ≠ { State.reset with f := FieldFile.all 7#256 } ∧
    State.reset.SameVisible { State.reset with f := FieldFile.all 7#256 } ∧
    step State.reset = .next State.reset ∧
    step { State.reset with f := FieldFile.all 7#256 } = .next { State.reset with f := FieldFile.all 7#256 } :=
  ⟨by decide +kernel,
   ⟨rfl, rfl, rfl, rfl, rfl, rfl, rfl, rfl, rfl, fun r h => (by cases r <;> cases h), fun b h => (by cases b <;> cases h)⟩, rfl, rfl⟩

theorem witness_RegisterFrame : exec .sel (s1State .reference) = .next (execState .sel (s1State .reference)) ∧
    FieldReg.gx1 ∉ writesRegs .sel := ⟨exec_eq _, by decide⟩

/-- A completing request in `READY`, one in `FAULTED`, and a `WRB` of the other block. -/
theorem witness_BlockAndFlagFrame :
    exec (.wrb .ib0 0#384) (fresh .reference) = .next (execState (.wrb .ib0 0#384) (fresh .reference)) ∧
    (∀ p, Instr.wrb .ib0 0#384 ≠ .wrb .ib1 p) ∧
    (execState (.wrb .ib0 0#384) (fresh .reference)).flt = (fresh .reference).flt ∧
    exec .sel faulted = .next (execState .sel faulted) ∧ faulted.flt = true :=
  ⟨exec_eq _, fun p => (by simp), rfl, exec_eq _, rfl⟩

theorem witness_InfinityFlagIsNeverSet :
    (withRegs .reference [(.u0, 1)]).flt = false ∧
    (execState (.map .fromU0) (withRegs .reference [(.u0, 1)])).flt = false ∧
    withBlocks.flt = false ∧ (execState .h2f withBlocks).flt = false ∧
    (step { State.reset with inf := true } = .next { State.reset with inf := true }) :=
  ⟨rfl, by decide +kernel, rfl, by decide +kernel, rfl⟩

/-- A faulting `WRF` drops a valid bit; a valid block stays valid. -/
theorem witness_ValidBitsDropOnlyAtFaults :
    (withRegs .reference [(.u0, 7)]).vf.get .u0 = true ∧
    (execState (.wrf .u0 (BitVec.ofNat 256 P)) (withRegs .reference [(.u0, 7)])).vf.get .u0 = false ∧
    withBlocks.vb.get .ib1 = true := by decide +kernel

theorem witness_FaultEntryInvalidatesDestinations :
    (Instr.map .fromU0).WellFormed ∧ (withRegs .reference [(.u0, 0)]).flt = false ∧
    (execState (.map .fromU0) (withRegs .reference [(.u0, 0)])).flt = true := by decide +kernel

/-- A served read, a completing request, a faulting one and a refused one; then a `WRF` payload with a wire above its width. -/
theorem witness_ResponseFormat :
    (exec .rds faulted = .next (execState .rds faulted) ∧ faulted.flt = true) ∧
    ((execState (.wrf .u0 5#256) (fresh .reference)).flt = false ∧ (fresh .reference).flt = false) ∧
    (execState .sel (fresh .reference)).flt = true ∧ (execState .sel faulted).response = notOk ∧
    decodeWord 0x0205#16 (BitVec.ofNat 384 5) = .ok (.wrf .gx2 5#256) ∧
    decodeWord 0x0205#16 (BitVec.ofNat 384 (2 ^ 256 + 5)) = .ok (.wrf .gx2 5#256) :=
  ⟨⟨exec_eq _, rfl⟩, by decide +kernel, by decide +kernel, by decide +kernel, by decide +kernel, by decide +kernel⟩

theorem witness_RequestsAreIdempotent : isRead (.map .fromU0) = false ∧ (withRegs .reference [(.u0, 1)]).flt = false ∧
    (execState (.map .fromU0) (withRegs .reference [(.u0, 1)])).flt = false := by decide +kernel

/-- The same source in two instances with different histories. -/
theorem witness_ResultsDependOnSourcesAlone :
    computes (.dec .ib1) = true ∧
    (execState .h2f withBlocks).cfg = withBlocks.cfg ∧
    (execState .h2f withBlocks).ib.get .ib1 = withBlocks.ib.get .ib1 ∧
    (execState (.dec .ib1) withBlocks).flt = false ∧
    (execState (.dec .ib1) (execState .h2f withBlocks)).flt = false := by decide +kernel

theorem witness_WrbWritesOneBlock : (fresh .reference).flt = false ∧
    (∀ (k : Nat) (hk : k < 48), (Vector.replicate 48 0xff#8)[k] =
      (BitVec.allOnes 384).extractLsb' (376 - 8 * k) 8) ∧
    opField 0x0102#16 = 0x01#8 ∧ 2 ≤ (idxField 0x0102#16).toNat := by decide +kernel

/-- The largest payload that is stored and the smallest that faults. -/
theorem witness_WrfWritesOneRegister : (fresh .reference).flt = false ∧
    (BitVec.ofNat 256 (P - 1)).toNat < P ∧ P ≤ (BitVec.ofNat 256 P).toNat ∧
    FieldReg.gx2 ∉ [FieldReg.x, FieldReg.y] ∧ FieldReg.x ∈ [FieldReg.x, FieldReg.y] ∧
    opField 0x0206#16 = 0x02#8 ∧ 6 ≤ (idxField 0x0206#16).toNat := by decide +kernel

theorem witness_RdfReadsOneRegister : (withRegs .reference [(.y, 0)]).vf.get .y = true ∧
    (fresh .reference).vf.get .y = false ∧ opField 0x0308#16 = 0x03#8 ∧ 8 ≤ (idxField 0x0308#16).toNat := by
  decide +kernel

theorem witness_RdsReadsTheStatusWord : opField 0x0401#16 = 0x04#8 ∧ idxField 0x0401#16 ≠ 0#4 := by decide +kernel

theorem witness_DecDecodesOneBlock : withBlocks.flt = false ∧ withBlocks.vb.get .ib1 = true ∧
    (fresh .reference).vb.get .ib1 = false ∧ opField 0x1002#16 = 0x10#8 ∧ 2 ≤ (idxField 0x1002#16).toNat := by
  decide +kernel

theorem witness_H2fPacksTheDecodedPair : withBlocks.flt = false ∧ withBlocks.vb.ib0 = true ∧ withBlocks.vb.ib1 = true ∧
    ((fresh .reference).writeBlock .ib0 State.reset.ib.ib0).vb.ib1 = false ∧
    opField 0x1101#16 = 0x11#8 ∧ idxField 0x1101#16 ≠ 0#4 := by decide +kernel

/-- The six cases of R144, on units written down as patches of the reference unit. -/
theorem witness_SelectorTable :
    (rootFn .reference (fq 4) = some (fq 2) ∧ rootFn .reference (fq 5) = none ∧ fsqr (fq 2) = fq 4) ∧
    (rootFn lyingUnit (fq 5) = some (fq 3) ∧ rootFn lyingUnit (fq 4) = none ∧ fsqr (fq 3) ≠ fq 5) ∧
    rootFn .reference (fq 9) = some (fq (P - 3)) ∧ rootFn .reference (fq 3) = none := by decide +kernel

/-- `SEL`: all four sources hold values; each case of the answers by the choice of `GX1`, `GX2` (Q1, Q2, Q12, Q3, Q4). -/
theorem witness_SelFollowsItsRule :
    (s1State .reference).flt = false ∧ (s1State .reference).cfg.root = .reference ∧
    (s1State .reference).Holds .x1 (fq 123) ∧ (s1State .reference).Holds .x2 (fq 200) ∧
    (s1State .reference).Holds .gx1 (fq 4) ∧ (s1State .reference).Holds .gx2 (fq 5) ∧
    (s1State lyingUnit).Holds .gx1 (fq 4) ∧ (s1State lyingUnit).Holds .gx2 (fq 5) ∧
    (rootFn (s1State lyingUnit).cfg.root (fq 4)) = none ∧
    (rootFn (s1State lyingUnit).cfg.root (fq 5)) = some (fq 3) ∧ fsqr (fq 3) ≠ fq 5 ∧
    (rootFn .reference (fq 3)).isSome = (rootFn .reference (fq 5)).isSome ∧
    (fresh .reference).vf.gx2 = false := by decide +kernel

/-- The intermediate values of vector M2 (`u = 1`, the second candidate). -/
def valuesM2 : MapValues where
  u2   := fq 1
  u4   := fq 1
  d    := fq 0x6e
  tv1  := fq 0x06fb586fb586fb586fb586fb586fb586fb586fb586fb586fb586fb5868ba2e71
  ainv := fq 0x2cf2e1012a9416f39cbf60f32404a38ff743ccf943a9d2667cf0d2335940bc82
  x1   := fq 0x3818acc210ce93fa11364eab433764e4fa97ceb88d328658680fd08409c42c23
  gx1  := fq 0xbd8b1ab0856e696a26e5471715c63ae2541d8e864020817fc7607c40dc7326e1
  x2   := fq 0x96f093a9471fa44142aa9ea41c9eaa293b7a1e11eed43a3387520a5094920f0c
  gx2  := fq 0x85c43c3a42f1ed17c5ef62f9ca5bd944aa53fc0096feb4a66559f6ebd53e2933

/-- The intermediate values of vector M1 (the first candidate). -/
def valuesM1 : MapValues where
  u2   := fq 0x8771a680bc19d1595de1726ecc6ea39cc1aa3827dc95326d8b0e278584fd8766
  u4   := fq 0x057e93ec6789adc4746538df0e06178e6b4d4beccd124efabbf0eb2d29c9094a
  d    := fq 0xc6f1c334daf72303fb27f6aad8201a9465387936733e29cddb43759809208354
  tv1  := fq 0x1365504656db920f21afa21fdacc5937dc9ce66f26bafd8c120d5ab04edd8ed3
  ainv := fq 0x2cf2e1012a9416f39cbf60f32404a38ff743ccf943a9d2667cf0d2335940bc82
  x1   := fq 0xf2dbbe11e7cea88a077aff019e1893aad0159bdcf8ffaf89b6c2892fc29d91b5
  gx1  := fq 0xc80e9c0d00c8046333ef703e902ea1c8132c4a2c6f374374573adf6d265c6257
  x2   := fq 0xb0a92209ab6ca9933429b12875e0f2f8317d1822440a3e3d863168a1ac49a8d5
  gx2  := fq 0x3c8e3afebf66af1f4214b12465b867f388400a232c11ae02c83dfdd3b9812c2d

/-- The intermediate values of vector M5 (`u = 0`, both candidates square). -/
def valuesM5 : MapValues where
  u2   := fq 0
  u4   := fq 0
  d    := fq 0
  tv1  := fq 0
  ainv := fq 0x2cf2e1012a9416f39cbf60f32404a38ff743ccf943a9d2667cf0d2335940bc82
  x1   := fq 0x0bc56cee718538b2a00c4df5d3e87b0c6df4ff98e82d74fdaa01d58e8d2345c3
  gx1  := fq 0xd75115ebd2cad3ee1955a30170f18325d99e745b535c76a1de2b89f8a2ba9647
  x2   := fq 0
  gx2  := fq 0x6eb

theorem witness_MapValues_M2 : valuesM2.Of (defaultConfig .reference) (fq 1) := by
  constructor <;> decide +kernel

theorem witness_MapValues_M1 : valuesM1.Of (defaultConfig .reference)
    (fq 0x128aab5d3679a1f7601e3bdf94ced1f43e491f544767e18a4873f397b08a2b61) := by
  constructor <;> decide +kernel

theorem witness_MapValues_M5 : valuesM5.Of (defaultConfig .reference) (fq 0) := by
  constructor <;> decide +kernel

/-- A unit that answers the candidates of M2 with the wrong one present and wrong. -/
def lyingUnitM2 (first : Bool) : RootUnit :=
  .patched valuesM2.gx1 (if first then some (fq 3) else none)
    (.patched valuesM2.gx2 (if first then none else some (fq 3)) .reference)

/-- `MAP`: the source holds its value; the first candidate (M1), the second (M2), a wrong answer for either, both (M5), and an
invalid source. -/
theorem witness_MapFollowsItsRule :
    (withRegs .reference [(.u1, 1)]).flt = false ∧ (withRegs .reference [(.u1, 1)]).Holds .u1 (fq 1) ∧
    (rootFn .reference valuesM1.gx1 =
        some (fq 0x3b22a18581bf9aec822c7ded0e822fde8eb7a71c2f68913a1719a72ffb83a9e5) ∧
      rootFn .reference valuesM1.gx2 = none) ∧
    (rootFn .reference valuesM2.gx1 = none ∧ rootFn .reference valuesM2.gx2 =
        some (fq 0xf8699b2094933e78e944d9f0f8caa985a2175618ca9910323c8cf2dad2557783)) ∧
    (rootFn (lyingUnitM2 true) valuesM2.gx1 = some (fq 3) ∧ rootFn (lyingUnitM2 true) valuesM2.gx2 = none ∧
      fsqr (fq 3) ≠ valuesM2.gx1) ∧
    (rootFn (lyingUnitM2 false) valuesM2.gx1 = none ∧ rootFn (lyingUnitM2 false) valuesM2.gx2 = some (fq 3) ∧
      fsqr (fq 3) ≠ valuesM2.gx2) ∧
    (rootFn .reference valuesM5.gx1).isSome = (rootFn .reference valuesM5.gx2).isSome ∧
    (fresh .reference).vf.get .u1 = false := by decide +kernel

theorem witness_MapReturnsAPointOfTheCurve :
    (withRegs .reference [(.u0, 1)]).Holds (mapSource .fromU0) (fq 1) ∧ (withRegs .reference [(.u0, 1)]).flt = false ∧
    (execState (.map .fromU0) (withRegs .reference [(.u0, 1)])).flt = false := by decide +kernel

theorem witness_MapCompletesExactlyOffZero :
    (withRegs .reference [(.u0, 1)]).flt = false ∧
    (withRegs .reference [(.u0, 1)]).Holds (mapSource .fromU0) (fq 1) ∧ fq 1 ≠ Fq.zero ∧
    (withRegs .reference [(.u0, 0)]).Holds (mapSource .fromU0) Fq.zero ∧
    (withRegs .reference [(.u0, 1)]).vf.get (mapSource .fromU1) = false ∧
    (withRegs .reference [(.u0, 1)]).cfg = defaultConfig (withRegs .reference [(.u0, 1)]).cfg.root ∧
    RootHonest (rootFn (withRegs .reference [(.u0, 1)]).cfg.root) :=
  ⟨rfl, by decide +kernel, by decide +kernel, by decide +kernel, rfl, rfl, rootHonest_reference⟩

/-- Two honest units that answer 4 with different roots (Q11). -/
theorem witness_MapIgnoresWhichHonestRoot :
    RootHonest (rootFn .reference) ∧ RootHonest (rootFn (.patched (fq 4) (some (fq (P - 2))) .reference)) ∧
    rootFn .reference (fq 4) ≠ rootFn (.patched (fq 4) (some (fq (P - 2))) .reference) (fq 4) :=
  ⟨rootHonest_reference, rootHonest_patched rootHonest_reference (by decide +kernel), by decide +kernel⟩

theorem witness_MapOfTheNegatedSource : fq 1 ≠ Fq.zero ∧
    (withRegs .reference [(.u0, 1)]).Holds (mapSource .fromU0) (fq 1) ∧
    (execState (.map .fromU0) (withRegs .reference [(.u0, 1)])).flt = false := by decide +kernel

theorem witness_ReselectionAfterMap : (withRegs .reference [(.u0, P - 1)]).flt = false ∧
    (execState (.map .fromU0) (withRegs .reference [(.u0, P - 1)])).flt = false := by decide +kernel

/-- The three cases of the denominator: `u = 0`, `Z·u² = -1` (M6) and a nonzero one (M2). -/
theorem witness_DenominatorAndItsInverse :
    mapDenominator (defaultConfig .reference) (fq 0) = Fq.zero ∧
    mapDenominator (defaultConfig .reference)
      (fq 0x331716177ec001cf0b2a4b9bf5c63274440235ba3dc0af713237ec866179d785) = Fq.zero ∧
    mapDenominator (defaultConfig .reference) (fq 1) ≠ Fq.zero := by decide +kernel

/-- A square `Z` (4, R94) is the constant of no instance; the default `Z` is none. -/
theorem test_square_is_no_Z (c : Config) : c.Z ≠ fq 4 :=
  fun h => c.Z_not_square ⟨fq 2, by rw [h]; decide +kernel⟩

theorem witness_ExactlyOneCandidateIsASquare :
    (withRegs .reference [(.u0, 1)]).flt = false ∧ (withRegs .reference [(.u0, 1)]).Holds (mapSource .fromU0) (fq 1) ∧
    RootHonest (rootFn (withRegs .reference [(.u0, 1)]).cfg.root) ∧
    mapDenominator (withRegs .reference [(.u0, 1)]).cfg (fq 1) ≠ Fq.zero ∧
    curveRhs (withRegs .reference [(.u0, 1)]).cfg (mapX1 (withRegs .reference [(.u0, 1)]).cfg (fq 1)) ≠ Fq.zero :=
  ⟨rfl, by decide +kernel, rootHonest_reference, by decide +kernel, by decide +kernel⟩

theorem witness_CandidatesAreRelated : mapDenominator (defaultConfig .reference) (fq 1) ≠ Fq.zero := by decide +kernel

theorem witness_SignFixupMatchesParity : fq 2 ≠ Fq.zero ∧ lsb (fq 1) ≠ lsb (fq 2) := by decide +kernel

theorem witness_NegationFlipsParity : fq 1 ≠ Fq.zero := by decide +kernel

/-- A square and a non-square as `GX1`, `GX2`, and two squares. -/
theorem witness_HonestRootDecidesSel : RootHonest (rootFn (s1State .reference).cfg.root) ∧
    (s1State .reference).Holds .gx1 (fq 4) ∧ (s1State .reference).Holds .gx2 (fq 5) ∧
    IsSquareFq (fq 4) ∧ ¬ IsSquareFq (fq 5) ∧ IsSquareFq (fq 9) := by
  refine ⟨rootHonest_reference, by decide +kernel, by decide +kernel, ⟨fq 2, by decide +kernel⟩, ?_,
    ⟨fq 3, by decide +kernel⟩⟩
  intro h
  obtain ⟨r, hr, -⟩ := (rootHonest_reference (fq 5)).1 h
  have hn : rootFn .reference (fq 5) = none := by decide +kernel
  rw [hn] at hr
  cases hr

theorem witness_InverseIsTheUniqueInverse : fneg Fq.one ≠ Fq.zero ∧
    finv (fneg Fq.one) (by decide +kernel) ≠ Fq.zero := by decide +kernel

theorem witness_ByteConversionsRoundTrip : 2 ^ 256 - 1 < 2 ^ 256 := by decide

end Sys2Proof.Tests
end

section
/-! PROOFS for 00_scope.md: the byte conversions (R13, R88 to R90) and the constants of an instance (R6). -/

namespace Sys2Proof.Machine

/-! `OS2IP` and the two 32-byte encodings (R13) -/

theorem os2ip_concat (s : List Byte) (b : Byte) : os2ip (s ++ [b]) = os2ip s * 256 + b.toNat := by
  simp [os2ip]

theorem os2ip_singleton (b : Byte) : os2ip [b] = b.toNat := by
  simp [os2ip]

/-- `OS2IP` weighs the leading part of a byte string by the length of the rest. -/
theorem os2ip_append (s t : List Byte) : os2ip (s ++ t) = os2ip s * 256 ^ t.length + os2ip t := by
  induction t using List.reverseRecOn with
  | nil => simp [os2ip]
  | append_singleton t b ih =>
    rw [← List.append_assoc, os2ip_concat, ih, os2ip_concat, List.length_append, List.length_singleton]
    ring

/-- The first `n` little-endian base-256 digits of `v`, read back with the last one first, are `v mod 256^n`. -/
theorem os2ip_reverse_digits (v n : Nat) :
    os2ip ((List.range n).map fun i => BitVec.ofNat 8 (v / 256 ^ i)).reverse = v % 256 ^ n := by
  induction n with
  | zero => simp [os2ip, Nat.mod_one]
  | succ n ih =>
    rw [List.range_succ, List.map_append, List.reverse_append, os2ip_append, ih, Nat.mod_pow_succ]
    simp only [List.map_singleton, List.reverse_singleton, List.length_reverse, List.length_map, List.length_range,
      os2ip_singleton, BitVec.toNat_ofNat]
    ring

@[simp] theorem le32_length (v : Nat) : (le32 v).length = 32 := by
  simp [le32]

@[simp] theorem be32_length (v : Nat) : (be32 v).length = 32 := by
  simp [be32]

/-- For every `v`: `BE32` holds its low 256 bits (R13). -/
theorem os2ip_be32 (v : Nat) : os2ip (be32 v) = v % 2 ^ 256 :=
  os2ip_reverse_digits v 32

theorem os2ip_be32_of_lt {v : Nat} (hv : v < 2 ^ 256) : os2ip (be32 v) = v := by
  rw [os2ip_be32, Nat.mod_eq_of_lt hv]

/-! Decoding into the field (R88, R90) -/

/-- Both decoders agree when each gets the encoding of its own byte order. -/
theorem fromLe32_le32 (v : Nat) : fromLe32 (le32 v) = fromBe32 (be32 v) := rfl

theorem fromBe32_be32 {v : Nat} (hv : v < 2 ^ 256) : fromBe32 (be32 v) = reduce v := by
  rw [fromBe32, os2ip_be32_of_lt hv]

theorem P_lt_two_pow_256 : P < 2 ^ 256 := by decide

theorem val_lt_two_pow_256 (a : Fq) : a.val < 2 ^ 256 := a.isLt.trans P_lt_two_pow_256

@[simp] theorem reduce_val (a : Fq) : reduce a.val = a := Fq.ext (Nat.mod_eq_of_lt a.isLt)

theorem fromBe32_toBe32 (a : Fq) : fromBe32 (toBe32 a) = a := by
  rw [toBe32, fromBe32_be32 (val_lt_two_pow_256 a), reduce_val]

theorem fromLe32_toLe32 (a : Fq) : fromLe32 (toLe32 a) = a :=
  (fromLe32_le32 a.val).trans (fromBe32_toBe32 a)

/-- Settles O53: reading the low 32 base-256 digits of `v` back gives `v` below `2^256`; the decoders reduce it modulo `P`,
which leaves a field element as it is. -/
theorem byteConversionsRoundTrip : Obligations.ByteConversionsRoundTrip := by
  refine ⟨fun v hv => ?_, fun a => ⟨fromBe32_toBe32 a, fromLe32_toLe32 a, rfl⟩⟩
  have hdec : (fromBe32 (be32 v)).val = v % P := congrArg Fq.val (fromBe32_be32 hv)
  exact ⟨os2ip_be32_of_lt hv, be32_length v, le32_length v, hdec, (congrArg Fq.val (fromLe32_le32 v)).trans hdec⟩

/-- Settles O54: a configuration carries the proofs of R6's three requirements (`lawfulConfig`), and the default one is
built from the literals of R6. -/
theorem constantsMeetTheirRequirements : Obligations.ConstantsMeetTheirRequirements :=
  ⟨fun s => lawfulConfig s.cfg, fun unit => ⟨lawfulConfig (defaultConfig unit), rfl, rfl, rfl, rfl⟩⟩

end Sys2Proof.Machine
end

section
/-! PROOFS for 10_state.md.  A request other than a read is split in two: `plan` says from the sources alone which
fault it raises or what it writes, and `State.commit` makes the writes.  `exec_ran` lists what `exec` can do in these terms; the
frame, the invariant and the noninterference statements follow from one fact for each of the four outcomes. -/

namespace Sys2Proof.Machine

/-! ## The writes of a completing request -/

/-- One write to the architectural state by a request that completes (R14, R27). -/
inductive Write
  | reg (r : FieldReg) (v : FieldBits)
  | block (b : BlockIx) (v : Block)
  | infZero

/-- The state after one write. -/
def State.write (s : State) : Write → State
  | .reg r v => s.writeBits r v
  | .block b v => s.writeBlock b v
  | .infZero => s.clearInf

/-- The state after a list of writes, in order. -/
def State.commit (s : State) (ws : List Write) : State := ws.foldl State.write s

@[simp] theorem State.commit_nil (s : State) : s.commit [] = s := (rfl)

@[simp] theorem State.commit_cons (s : State) (w : Write) (ws : List Write) :
    s.commit (w :: ws) = (s.write w).commit ws := (rfl)

/-- What no single write changes, a list of writes does not change. -/
theorem State.commit_keeps {α : Type} (g : State → α) (hg : ∀ s w, g (s.write w) = g s) (s : State)
    (ws : List Write) : g (s.commit ws) = g s := by
  induction ws generalizing s with
  | nil => rfl
  | cons w ws ih => exact (ih (s.write w)).trans (hg s w)

@[simp] theorem State.commit_flt (s : State) (ws : List Write) : (s.commit ws).flt = s.flt :=
  State.commit_keeps State.flt (fun _ w => by cases w <;> rfl) s ws
@[simp] theorem State.commit_cause (s : State) (ws : List Write) : (s.commit ws).cause = s.cause :=
  State.commit_keeps State.cause (fun _ w => by cases w <;> rfl) s ws
@[simp] theorem State.commit_cfg (s : State) (ws : List Write) : (s.commit ws).cfg = s.cfg :=
  State.commit_keeps State.cfg (fun _ w => by cases w <;> rfl) s ws
@[simp] theorem State.commit_pending (s : State) (ws : List Write) : (s.commit ws).pending = s.pending :=
  State.commit_keeps State.pending (fun _ w => by cases w <;> rfl) s ws

/-- A register that no write names keeps its contents and its valid bit. -/
theorem State.commit_reg_frame {ws : List Write} {r : FieldReg} (h : ∀ v, .reg r v ∉ ws) (s : State) :
    (s.commit ws).f.get r = s.f.get r ∧ (s.commit ws).vf.get r = s.vf.get r := by
  induction ws generalizing s with
  | nil => simp
  | cons w ws ih =>
    obtain ⟨hw, hws⟩ : (∀ v, .reg r v ≠ w) ∧ ∀ v, .reg r v ∉ ws := by
      simpa only [List.mem_cons, not_or, forall_and] using h
    rw [State.commit_cons, (ih hws _).1, (ih hws _).2]
    cases w with
    | reg r' v =>
      have hne : r ≠ r' := fun e => hw v (e ▸ rfl)
      simp [State.write, hne]
    | block b v => simp [State.write]
    | infZero => simp [State.write]

/-- A block that no write names keeps its contents and its valid bit. -/
theorem State.commit_block_frame {ws : List Write} {b : BlockIx} (h : ∀ v, .block b v ∉ ws) (s : State) :
    (s.commit ws).ib.get b = s.ib.get b ∧ (s.commit ws).vb.get b = s.vb.get b := by
  induction ws generalizing s with
  | nil => simp
  | cons w ws ih =>
    obtain ⟨hw, hws⟩ : (∀ v, .block b v ≠ w) ∧ ∀ v, .block b v ∉ ws := by
      simpa only [List.mem_cons, not_or, forall_and] using h
    rw [State.commit_cons, (ih hws _).1, (ih hws _).2]
    cases w with
    | reg r v => simp [State.write]
    | block b' v =>
      have hne : b ≠ b' := fun e => hw v (e ▸ rfl)
      simp [State.write, hne]
    | infZero => simp [State.write]

/-- Writes make valid and never invalid (R24). -/
theorem State.commit_keeps_valid (s : State) (ws : List Write) {r : FieldReg} (h : s.vf.get r = true) :
    (s.commit ws).vf.get r = true := by
  induction ws generalizing s with
  | nil => exact h
  | cons w ws ih =>
    refine ih _ ?_
    cases w <;> simp [State.write, FieldFile.get_set, h]

theorem State.commit_keeps_valid_block (s : State) (ws : List Write) {b : BlockIx} (h : s.vb.get b = true) :
    (s.commit ws).vb.get b = true := by
  induction ws generalizing s with
  | nil => exact h
  | cons w ws ih =>
    refine ih _ ?_
    cases w <;> simp [State.write, BlockFile.get_set, h]

/-- A register that is written is valid afterwards, and what it holds does not depend on the state. -/
theorem State.commit_written {ws : List Write} {r : FieldReg} {v : FieldBits} (h : .reg r v ∈ ws) (s s' : State) :
    (s.commit ws).vf.get r = true ∧ (s'.commit ws).f.get r = (s.commit ws).f.get r := by
  induction ws generalizing s s' v with
  | nil => cases h
  | cons w ws ih =>
    by_cases hws : ∃ v', .reg r v' ∈ ws
    · obtain ⟨v', hv'⟩ := hws
      exact ih hv' _ _
    · have hframe := State.commit_reg_frame (ws := ws) (r := r) (fun v' hv' => hws ⟨v', hv'⟩)
      obtain rfl : .reg r v = w := (List.mem_cons.mp h).resolve_right fun hv => hws ⟨v, hv⟩
      simp [hframe, State.write]

/-- `INF` is 0 afterwards if it was 0 or is written (R27). -/
theorem State.commit_inf_zero {s : State} {ws : List Write} (h : s.inf = false ∨ .infZero ∈ ws) :
    (s.commit ws).inf = false := by
  induction ws generalizing s with
  | nil => simpa using h
  | cons w ws ih =>
    refine ih ?_
    cases w with
    | reg r v => simpa [State.write] using h
    | block b v => simpa [State.write] using h
    | infZero => exact .inl rfl

theorem State.commit_inf_frame {ws : List Write} (h : .infZero ∉ ws) (s : State) : (s.commit ws).inf = s.inf := by
  induction ws generalizing s with
  | nil => rfl
  | cons w ws ih =>
    obtain ⟨hw, hws⟩ : .infZero ≠ w ∧ .infZero ∉ ws := by simpa only [List.mem_cons, not_or] using h
    refine (ih hws _).trans ?_
    cases w with
    | reg r v => rfl
    | block b v => rfl
    | infZero => exact absurd rfl hw

/-! ## What a request writes, from its sources alone -/

/-- A fault of the block as a request raises it: the cause and the destinations to invalidate (R160). -/
abbrev Raised := FaultCode × List FieldReg

/-- R24, R153: a source that is not valid raises `SRC_INVALID`. -/
def needs {α : Type} (dests : List FieldReg) (src : Option α) : Except Raised α :=
  match src with
  | some a => .ok a
  | none => .error (.srcInvalid, dests)

@[simp] theorem needs_some_bind {α β : Type} (dests : List FieldReg) (a : α) (f : α → Except Raised β) :
    (needs dests (some a) >>= f) = f a := (rfl)

/-- R113: the writes of a completing `H2F`. -/
def packedWrites (u0 u1 : Fq) : List Write :=
  [.reg .u0 (bits u0), .reg .u1 (bits u1), .reg .x (bits u0), .reg .y (bits u1), .infZero]

/-- R120, R128: the writes of a completing `MAP` of `u` whose selector returned `(x, y)`. -/
def mappedWrites (c : Config) (u x y : Fq) : List Write :=
  [.reg .x1 (bits (mapX1 c u)), .reg .x2 (bits (mapX2 c u)), .reg .gx1 (bits (curveRhs c (mapX1 c u))),
   .reg .gx2 (bits (curveRhs c (mapX2 c u))), .reg .x (bits x), .reg .y (bits (signFixup u y)), .infZero]

/-- What a request does in `READY`: the fault it raises, or its writes.  A read writes nothing. -/
def plan (i : Instr) (s : State) : Except Raised (List Write) :=
  match i with
  | .wrb b payload => .ok [.block b (blockOfPayload payload)]
  | .wrf r payload =>
    if notHostWritable r then .error (.illegalReq, [])
    else if P ≤ payload.toNat then .error (.range, [r])
    else .ok [.reg r payload]
  | .rdf _ => .ok []
  | .rds => .ok []
  | .dec b => do
    let block ← needs [decDest b] (s.sourceBlock b)
    .ok [.reg (decDest b) (bits (decode48 block))]
  | .h2f => do
    let b0 ← needs h2fDests (s.sourceBlock .ib0)
    let b1 ← needs h2fDests (s.sourceBlock .ib1)
    .ok (packedWrites (decode48 b0) (decode48 b1))
  | .map src => do
    let u ← needs mapDests (s.source (mapSource src))
    let p ← (mapSelect s.cfg u).mapError (·, mapDests)
    .ok (mappedWrites s.cfg u p.1 p.2)
  | .sel => do
    let x1 ← needs selDests (s.source .x1)
    let x2 ← needs selDests (s.source .x2)
    let gx1 ← needs selDests (s.source .gx1)
    let gx2 ← needs selDests (s.source .gx2)
    let p ← (selectXY (rootFn s.cfg.root) x1 x2 gx1 gx2).mapError (·, selDests)
    .ok [.reg .x (bits p.1), .reg .y (bits p.2)]

/-- A planned outcome carried out: the fault entry, or the writes and `ok = 1`. -/
def State.carryOut (s : State) : Except Raised (List Write) → State
  | .ok ws => (s.commit ws).respondOk
  | .error e => s.faultEntry e.1 e.2

/-- In `READY` a request that is no read carries out its plan: `plan` is the model's meaning of it. -/
theorem execState_ready {i : Instr} (hi : isRead i = false) {s : State} (hs : s.flt = false) :
    execState i s = s.carryOut (plan i s) := by
  cases i with
  | wrb b payload => simp only [execState, State.ifReady_ready hs]; rfl
  | wrf r payload =>
    simp only [execState, State.ifReady_ready hs, plan]
    split
    · rfl
    · split <;> rfl
  | rdf r => cases hi
  | rds => cases hi
  | dec b =>
    simp only [execState, State.ifReady_ready hs, plan]
    cases s.sourceBlock b <;> rfl
  | h2f =>
    simp only [execState, State.ifReady_ready hs, plan]
    cases s.sourceBlock .ib0 <;> cases s.sourceBlock .ib1 <;> rfl
  | map src =>
    simp only [execState, State.ifReady_ready hs, plan]
    cases s.source (mapSource src) with
    | none => rfl
    | some u =>
      simp only [needs_some_bind]
      cases mapSelect s.cfg u <;> rfl
  | sel =>
    simp only [execState, State.ifReady_ready hs, plan]
    rcases s.source .x1 with _ | x1
    · rfl
    rcases s.source .x2 with _ | x2
    · rfl
    rcases s.source .gx1 with _ | gx1
    · rfl
    rcases s.source .gx2 with _ | gx2
    · rfl
    simp only [needs_some_bind]
    cases selectXY (rootFn s.cfg.root) x1 x2 gx1 gx2 <;> rfl

/-- In `FAULTED` a request that is no read is refused (R163). -/
theorem execState_faulted {i : Instr} (hi : isRead i = false) {s : State} (hs : s.flt = true) :
    execState i s = s.refuse := by
  cases i
  case rdf => cases hi
  case rds => cases hi
  all_goals simp only [execState, State.ifReady_faulted hs]

/-- What a read does: its answer and, for an invalid register, a draw of a free value; nothing else (R102, R103). -/
theorem execState_read {i : Instr} (hi : isRead i = true) (s : State) :
    ∃ n rsp, execState i s = { s with draws := n, response := rsp } := by
  cases i
  case rdf r =>
    by_cases hr : s.vf.get r = true
    · exact ⟨s.draws, _, by simp only [execState, hr, if_true]; rfl⟩
    · exact ⟨s.draws + 1, _, by simp only [execState, hr]; rfl⟩
  case rds => exact ⟨s.draws, _, rfl⟩
  all_goals cases hi

/-- The four outcomes of an instruction `i` in a state `s`. -/
inductive Ran (i : Instr) (s : State) : State → Prop
  /-- A read, served in `READY` and `FAULTED` alike (R163): only the response and the draw counter change. -/
  | read (n : Nat) (rsp : Option Response) : isRead i = true → Ran i s { s with draws := n, response := rsp }
  /-- A request other than a read in `FAULTED` (R163). -/
  | refused : s.flt = true → Ran i s s.refuse
  /-- A request in `READY` that raises no fault. -/
  | completed (ws : List Write) : s.flt = false → plan i s = .ok ws → Ran i s (s.commit ws).respondOk
  /-- A request in `READY` that raises a fault (R160). -/
  | faulted (c : FaultCode) (dests : List FieldReg) :
      s.flt = false → plan i s = .error (c, dests) → Ran i s (s.faultEntry c dests)

theorem execState_ran (i : Instr) (s : State) : Ran i s (execState i s) := by
  by_cases hi : isRead i = true
  · obtain ⟨n, rsp, h⟩ := execState_read hi s
    exact h ▸ .read n rsp hi
  · replace hi : isRead i = false := by simpa using hi
    rcases hs : s.flt with _ | _
    · rw [execState_ready hi hs]
      rcases hp : plan i s with ⟨c, dests⟩ | ws
      · exact .faulted c dests hs hp
      · exact .completed ws hs hp
    · rw [execState_faulted hi hs]
      exact .refused hs

/-- What an answered instruction did. -/
theorem exec_ran {i : Instr} {s t : State} (h : exec i s = .next t) : Ran i s t :=
  execState_of_next h ▸ execState_ran i s

/-! ## What a plan can be -/

theorem bind_eq_ok {α β : Type} {x : Except Raised α} {f : α → Except Raised β} {b : β} :
    (x >>= f) = .ok b ↔ ∃ a, x = .ok a ∧ f a = .ok b := by
  cases x <;> simp [bind, Except.bind]

@[simp] theorem needs_eq_ok {α : Type} {dests : List FieldReg} {src : Option α} {a : α} :
    needs dests src = .ok a ↔ src = some a := by
  cases src <;> simp [needs]

@[simp] theorem mapError_eq_ok {α : Type} {x : Except FaultCode α} {dests : List FieldReg} {a : α} :
    x.mapError (·, dests) = .ok a ↔ x = .ok a := by
  cases x <;> simp [Except.mapError]

theorem bits_toNat (v : Fq) : (bits v).toNat = v.val := by
  rw [bits, BitVec.toNat_ofNat, Nat.mod_eq_of_lt (val_lt_two_pow_256 v)]

theorem bits_lt_P (v : Fq) : (bits v).toNat < P := by
  rw [bits_toNat]
  exact v.isLt

theorem State.source_isSome {s : State} {r : FieldReg} {v : Fq} (h : s.source r = some v) : s.vf.get r = true := by
  by_contra hr
  simp [State.source, hr] at h

theorem State.sourceBlock_isSome {s : State} {b : BlockIx} {v : Block} (h : s.sourceBlock b = some v) :
    s.vb.get b = true := by
  by_contra hb
  simp [State.sourceBlock, hb] at h

/-- What the writes of a completing request can be: it had its sources (R24), it writes the registers of R22's table with
reduced values (R21), only `WRB` writes a block and only its own (R25), and `MAP` and `H2F` clear `INF` (R27). -/
structure WritesOf (i : Instr) (s : State) (ws : List Write) : Prop where
  regSources   : ∀ r ∈ readsRegs i, s.vf.get r = true
  blockSources : ∀ b ∈ readsBlocks i, s.vb.get b = true
  regs         : ∀ r, (∃ v, .reg r v ∈ ws) ↔ r ∈ writesRegs i
  reduced      : ∀ r v, .reg r v ∈ ws → v.toNat < P
  blocks       : ∀ b v, .block b v ∈ ws → ∃ p, i = .wrb b p
  infZero      : .infZero ∈ ws ↔ i = .h2f ∨ ∃ src, i = .map src

theorem plan_ok {i : Instr} {s : State} {ws : List Write} (h : plan i s = .ok ws) : WritesOf i s ws := by
  cases i with
  | wrb b payload =>
    obtain rfl : [.block b (blockOfPayload payload)] = ws := by simpa [plan] using h
    constructor <;> simp [readsRegs, readsBlocks, writesRegs]
  | wrf r payload =>
    obtain ⟨-, hlt, rfl⟩ : notHostWritable r = false ∧ payload.toNat < P ∧ [.reg r payload] = ws := by
      simpa [plan, ite_eq_iff] using h
    constructor <;> simp [readsRegs, readsBlocks, writesRegs, hlt]
  | rdf r =>
    obtain rfl : [] = ws := by simpa [plan] using h
    constructor <;> simp [readsRegs, readsBlocks, writesRegs]
  | rds =>
    obtain rfl : [] = ws := by simpa [plan] using h
    constructor <;> simp [readsRegs, readsBlocks, writesRegs]
  | dec b =>
    obtain ⟨block, hb, rfl⟩ := by simpa [plan, bind_eq_ok] using h
    have hv := State.sourceBlock_isSome hb
    cases b <;> constructor <;> simp [readsRegs, readsBlocks, writesRegs, decDest, bits_lt_P, hv]
  | h2f =>
    obtain ⟨b0, h0, b1, h1, rfl⟩ := by simpa [plan, bind_eq_ok] using h
    constructor <;> simp [readsRegs, readsBlocks, writesRegs, packedWrites, exists_or, or_imp, forall_and, bits_lt_P,
      State.sourceBlock_isSome h0, State.sourceBlock_isSome h1]
  | map src =>
    obtain ⟨u, hu, x, y, -, rfl⟩ := by simpa [plan, bind_eq_ok] using h
    have hv := State.source_isSome hu
    constructor
    · cases src <;> simpa [readsRegs, mapSource] using hv
    all_goals simp [readsBlocks, writesRegs, mappedWrites, exists_or, or_imp, forall_and, bits_lt_P]
  | sel =>
    obtain ⟨x1, h1, x2, h2, g1, h3, g2, h4, x, y, -, rfl⟩ := by simpa [plan, bind_eq_ok] using h
    constructor <;> simp [readsRegs, readsBlocks, writesRegs, exists_or, or_imp, forall_and, bits_lt_P,
      State.source_isSome h1, State.source_isSome h2, State.source_isSome h3, State.source_isSome h4]

/-- Whatever fault the computation raises has exactly these destinations. -/
def RaisesWith {α : Type} (dests : List FieldReg) (x : Except Raised α) : Prop := ∀ e, x = .error e → e.2 = dests

theorem raisesWith_ok {α : Type} (dests : List FieldReg) (a : α) : RaisesWith dests (.ok a) :=
  fun _ h => by cases h

theorem raisesWith_error (c : FaultCode) (dests : List FieldReg) (α : Type) :
    RaisesWith (α := α) dests (.error (c, dests)) :=
  fun _ h => by cases h; rfl

theorem raisesWith_needs {α : Type} (dests : List FieldReg) (src : Option α) : RaisesWith dests (needs dests src) := by
  cases src
  · exact raisesWith_error _ _ _
  · exact raisesWith_ok _ _

theorem raisesWith_mapError {α : Type} (dests : List FieldReg) (x : Except FaultCode α) :
    RaisesWith dests (x.mapError (·, dests)) := by
  cases x
  · exact raisesWith_error _ _ _
  · exact raisesWith_ok _ _

theorem RaisesWith.bind {α β : Type} {dests : List FieldReg} {x : Except Raised α} {f : α → Except Raised β}
    (hx : RaisesWith dests x) (hf : ∀ a, RaisesWith dests (f a)) : RaisesWith dests (x >>= f) := by
  cases x with
  | error e => exact fun e' h => hx e' (by cases h; rfl)
  | ok a => exact hf a

/-- The destinations of the fault a request raises are among those R161 lists for it. -/
theorem plan_error {i : Instr} {s : State} {c : FaultCode} {dests : List FieldReg}
    (h : plan i s = .error (c, dests)) : dests ⊆ faultDests i := by
  suffices dests = [] ∨ RaisesWith (faultDests i) (plan i s) by
    obtain rfl | hr := this
    · exact List.nil_subset _
    · obtain rfl : dests = faultDests i := hr _ h
      exact List.Subset.refl _
  cases i with
  | wrb b payload => exact .inr (raisesWith_ok _ _)
  | wrf r payload =>
    simp only [plan] at h ⊢
    by_cases hw : notHostWritable r = true
    · rw [if_pos hw] at h
      cases h
      exact .inl rfl
    · rw [if_neg hw]
      split
      · exact .inr (raisesWith_error _ _ _)
      · exact .inr (raisesWith_ok _ _)
  | rdf r => exact .inr (raisesWith_ok _ _)
  | rds => exact .inr (raisesWith_ok _ _)
  | dec b =>
    cases b <;> exact .inr (.bind (raisesWith_needs _ _) fun _ => raisesWith_ok _ _)
  | h2f =>
    exact .inr (.bind (raisesWith_needs _ _) fun _ => .bind (raisesWith_needs _ _) fun _ => raisesWith_ok _ _)
  | map src =>
    exact .inr (.bind (raisesWith_needs _ _) fun _ => .bind (raisesWith_mapError _ _) fun _ => raisesWith_ok _ _)
  | sel =>
    exact .inr (.bind (raisesWith_needs _ _) fun _ => .bind (raisesWith_needs _ _) fun _ =>
      .bind (raisesWith_needs _ _) fun _ => .bind (raisesWith_needs _ _) fun _ =>
      .bind (raisesWith_mapError _ _) fun _ => raisesWith_ok _ _)

/-- A plan depends on the sources of the request and on the configuration, on nothing else (R32). -/
theorem plan_congr {i : Instr} {s s' : State} (hcfg : s'.cfg = s.cfg)
    (hregs : ∀ r ∈ readsRegs i, s'.source r = s.source r)
    (hblocks : ∀ b ∈ readsBlocks i, s'.sourceBlock b = s.sourceBlock b) : plan i s' = plan i s := by
  cases i with
  | wrb b payload => rfl
  | wrf r payload => rfl
  | rdf r => rfl
  | rds => rfl
  | dec b => simp only [plan, hblocks b (by simp [readsBlocks])]
  | h2f => simp only [plan, hblocks .ib0 (by simp [readsBlocks]), hblocks .ib1 (by simp [readsBlocks])]
  | map src => simp only [plan, hcfg, hregs (mapSource src) (by cases src <;> simp [readsRegs, mapSource])]
  | sel =>
    simp only [plan, hcfg, hregs .x1 (by simp [readsRegs]), hregs .x2 (by simp [readsRegs]),
      hregs .gx1 (by simp [readsRegs]), hregs .gx2 (by simp [readsRegs])]

/-! ## Frames of the requests -/

/-- The tables of R22 and R161 list the same registers. -/
theorem faultDests_eq_writesRegs (i : Instr) : faultDests i = writesRegs i := by
  cases i with
  | dec b => cases b <;> rfl
  | _ => rfl

section
variable {i : Instr} {s t : State}

theorem Ran.cfg (h : Ran i s t) : t.cfg = s.cfg := by
  cases h <;> simp

theorem Ran.pending (h : Ran i s t) : t.pending = s.pending := by
  cases h <;> simp

theorem Ran.reg_frame (h : Ran i s t) {r : FieldReg} (hr : r ∉ writesRegs i) :
    t.f.get r = s.f.get r ∧ t.vf.get r = s.vf.get r := by
  cases h with
  | read n rsp hi => exact ⟨rfl, rfl⟩
  | refused hs => exact ⟨rfl, rfl⟩
  | completed ws hs hp =>
    have hws : ∀ v, .reg r v ∉ ws := fun v hv => hr (((plan_ok hp).regs r).mp ⟨v, hv⟩)
    simpa using State.commit_reg_frame hws s
  | faulted c dests hs hp =>
    have hd : r ∉ dests := fun hmem => hr (faultDests_eq_writesRegs i ▸ plan_error hp hmem)
    simpa using s.invalidateAll_not_mem dests hd

theorem Ran.block_frame (h : Ran i s t) {b : BlockIx} (hb : ∀ p, i ≠ .wrb b p) :
    t.ib.get b = s.ib.get b ∧ t.vb.get b = s.vb.get b := by
  cases h with
  | read n rsp hi => exact ⟨rfl, rfl⟩
  | refused hs => exact ⟨rfl, rfl⟩
  | completed ws hs hp =>
    have hws : ∀ v, .block b v ∉ ws := fun v hv => by
      obtain ⟨p, hi⟩ := (plan_ok hp).blocks b v hv
      exact hb p hi
    simpa using State.commit_block_frame hws s
  | faulted c dests hs hp => simp

/-- `CAUSE` changes only where `FLT` changes (R29). -/
theorem Ran.cause (h : Ran i s t) (hflt : t.flt = s.flt) : t.cause = s.cause := by
  cases h with
  | read n rsp hi => rfl
  | refused hs => rfl
  | completed ws hs hp => simp
  | faulted c dests hs hp => simp [hs] at hflt

/-- No request leaves `FAULTED` (R28). -/
theorem Ran.flt_stays (h : Ran i s t) (hs : s.flt = true) : t.flt = true := by
  cases h <;> simp [hs]

/-- A register whose valid bit drops is a destination of a request that faults in `READY` (R24). -/
theorem Ran.valid_drops (h : Ran i s t) {r : FieldReg} (hv : s.vf.get r = true) (hd : t.vf.get r = false) :
    s.flt = false ∧ t.flt = true ∧ r ∈ faultDests i := by
  cases h with
  | read n rsp hi => simp [hv] at hd
  | refused hs => simp [hv] at hd
  | completed ws hs hp => simp [s.commit_keeps_valid ws hv] at hd
  | faulted c dests hs hp =>
    refine ⟨hs, rfl, plan_error hp ?_⟩
    by_contra hr
    simp [s.invalidateAll_not_mem dests hr, hv] at hd

theorem Ran.keeps_valid_block (h : Ran i s t) {b : BlockIx} (hv : s.vb.get b = true) : t.vb.get b = true := by
  cases h with
  | read n rsp hi => exact hv
  | refused hs => exact hv
  | completed ws hs hp => simpa using s.commit_keeps_valid_block ws hv
  | faulted c dests hs hp => simpa using hv

/-- A request leaves `INF` as it is, or clears it (R27). -/
theorem Ran.inf (h : Ran i s t) : t.inf = s.inf ∨ t.inf = false ∧ (i = .h2f ∨ ∃ src, i = .map src) := by
  cases h with
  | read n rsp hi => exact .inl rfl
  | refused hs => exact .inl rfl
  | completed ws hs hp =>
    by_cases hws : .infZero ∈ ws
    · exact .inr ⟨State.commit_inf_zero (.inr hws), (plan_ok hp).infZero.mp hws⟩
    · exact .inl (State.commit_inf_frame hws s)
  | faulted c dests hs hp => exact .inl (by simp)

/-- A completing `MAP` or `H2F` leaves `INF` 0 (R27). -/
theorem Ran.inf_cleared (h : Ran i s t) (hi : i = .h2f ∨ ∃ src, i = .map src) (hs : s.flt = false)
    (ht : t.flt = false) : t.inf = false := by
  cases h with
  | read n rsp hread => obtain rfl | ⟨src, rfl⟩ := hi <;> cases hread
  | refused hf => simp [hs] at hf
  | completed ws _ hp => exact State.commit_inf_zero (.inr ((plan_ok hp).infZero.mpr hi))
  | faulted c dests _ hp => cases ht

/-- A completing request that is no read carried out a list of writes. -/
theorem Ran.completes (h : Ran i s t) (hi : isRead i = false) (hs : s.flt = false) (ht : t.flt = false) :
    ∃ ws, plan i s = .ok ws ∧ t = (s.commit ws).respondOk := by
  cases h with
  | read n rsp hread => simp [hi] at hread
  | refused hf => simp [hs] at hf
  | completed ws _ hp => exact ⟨ws, hp, rfl⟩
  | faulted c dests _ hp => cases ht

end

/-- Settles O22: a completing request writes only registers of R22's table, and a faulting one invalidates only those. -/
theorem registerFrame : Obligations.RegisterFrame :=
  fun _ _ _ _ h hr => (exec_ran h).reg_frame hr

/-- Settles O23: each clause is the frame of one field over the four outcomes. -/
theorem blockAndFlagFrame : Obligations.BlockAndFlagFrame := fun _ _ _ h =>
  have ran := exec_ran h
  ⟨fun _ hb => ran.block_frame hb, ran.cause, ran.flt_stays, ran.pending, ran.cfg⟩

/-- Settles O25: writes only make valid, so only the fault entry can drop a valid bit. -/
theorem validBitsDropOnlyAtFaults : Obligations.ValidBitsDropOnlyAtFaults :=
  ⟨fun _ _ _ _ h hv hd => (exec_ran h).valid_drops hv hd, fun _ _ _ _ h hv => (exec_ran h).keeps_valid_block hv⟩

theorem isRead_of_computes {i : Instr} (h : computes i = true) : isRead i = false := by
  cases i
  case rdf => cases h
  case rds => cases h
  all_goals rfl

theorem State.source_congr {s s' : State} {r : FieldReg} (hvf : s'.vf.get r = s.vf.get r)
    (hf : s.vf.get r = true → s'.f.get r = s.f.get r) : s'.source r = s.source r := by
  rcases hv : s.vf.get r with _ | _
  · rw [State.source_invalid hv, State.source_invalid (hvf.trans hv)]
  · rw [State.source_valid hv, State.source_valid (hvf.trans hv), hf hv]

theorem State.sourceBlock_congr {s s' : State} {b : BlockIx} (hvb : s'.vb.get b = s.vb.get b)
    (hib : s.vb.get b = true → s'.ib.get b = s.ib.get b) : s'.sourceBlock b = s.sourceBlock b := by
  rcases hv : s.vb.get b with _ | _
  · rw [State.sourceBlock_invalid hv, State.sourceBlock_invalid (hvb.trans hv)]
  · rw [State.sourceBlock_valid hv, State.sourceBlock_valid (hvb.trans hv), hib hv]

/-- Settles O29: in both states the sources are valid and equal, so the plans are the same list of writes. -/
theorem resultsDependOnSourcesAlone : Obligations.ResultsDependOnSourcesAlone := by
  intro i s s' t t' hi hcfg hf hib hs hs' ht ht' hdone hdone' r hr
  have hread := isRead_of_computes hi
  obtain ⟨ws, hp, rfl⟩ := (exec_ran ht).completes hread hs hdone
  obtain ⟨ws', hp', rfl⟩ := (exec_ran ht').completes hread hs' hdone'
  have hok := plan_ok hp
  have hok' := plan_ok hp'
  have hplan : plan i s' = plan i s := plan_congr hcfg
    (fun r hr => State.source_congr ((hok'.regSources r hr).trans (hok.regSources r hr).symm) fun _ => hf r hr)
    (fun b hb => State.sourceBlock_congr ((hok'.blockSources b hb).trans (hok.blockSources b hb).symm)
      fun _ => hib b hb)
  obtain rfl : ws' = ws := by simpa [hp, hp'] using hplan
  obtain ⟨v, hv⟩ := (hok.regs r).mpr hr
  exact ⟨(State.commit_written hv s s').2, (State.commit_written hv s' s).1⟩

/-! ## Every step -/

section
variable {s : State} {rest : List HostMove}

theorem step_idle (h : s.pending = []) : step s = .next s := by
  rw [step, State.takeMove_nil h]

theorem step_reset (h : s.pending = .reset :: rest) :
    step s = .next ({ s with pending := rest } : State).resetMove := by
  rw [step, State.takeMove_cons h]

theorem step_illegal {r : Request} {e : Illegal} (h : s.pending = .request r :: rest) (hd : decode r = .error e) :
    step s = .next ({ s with pending := rest } : State).illegalRequest := by
  simp only [step, State.takeMove_cons h, hd]

theorem step_instr {r : Request} {i : Instr} (h : s.pending = .request r :: rest) (hd : decode r = .ok i) :
    step s = .next (execState i { s with pending := rest }) := by
  simp only [step, State.takeMove_cons h, hd, exec_eq]

end

theorem State.illegalRequest_cases (s : State) :
    s.illegalRequest = s.refuse ∨ s.illegalRequest = s.faultEntry .illegalReq [] := by
  rcases hs : s.flt with _ | _
  · exact .inr (State.ifReady_ready hs)
  · exact .inl (State.ifReady_faulted hs)

/-- Settles O20: the reset move, the illegal request and every instruction keep the configuration. -/
theorem configurationNeverChanges : Obligations.ConfigurationNeverChanges := by
  intro s t h
  obtain ⟨-, rfl⟩ | ⟨rest, -, rfl⟩ | ⟨r, rest, e, -, -, rfl⟩ | ⟨r, rest, i, -, -, hexec⟩ := step_cases h
  · rfl
  · rfl
  · obtain h | h := State.illegalRequest_cases { s with pending := rest } <;> simp [h]
  · exact (exec_ran hexec).cfg

/-! ## The invariant (R21, R27, R29) -/

/-- Settles O18: at reset no register is valid, and `INF`, `FLT` and `CAUSE` are 0. -/
theorem resetMeetsInvariant : Obligations.ResetMeetsInvariant where
  reduced r hr := by simp [State.reset] at hr
  finite := rfl
  noCause _ := rfl
  hasCause h := by cases h

/-- Settles O14: the fields of the reset state as they stand; an invalid register or block is no source (R24). -/
theorem resetValues : Obligations.ResetValues := by
  have hvf : ∀ r, State.reset.vf.get r = false := FieldFile.get_all false
  have hvb : ∀ b, State.reset.vb.get b = false := fun b => by cases b <;> rfl
  exact ⟨rfl, rfl, rfl, hvf, hvb, fun r => State.source_invalid (hvf r), fun b => State.sourceBlock_invalid (hvb b),
    by decide⟩

/-- The invariant speaks of five fields; the rest of the state is free. -/
theorem State.Inv.of_eq {s t : State} (h : s.Inv) (hf : t.f = s.f) (hvf : t.vf = s.vf) (hinf : t.inf = s.inf)
    (hflt : t.flt = s.flt) (hcause : t.cause = s.cause) : t.Inv where
  reduced := by simpa only [hf, hvf] using h.reduced
  finite := hinf.trans h.finite
  noCause := by simpa only [hflt, hcause] using h.noCause
  hasCause := by simpa only [hflt, hcause] using h.hasCause

theorem State.Inv.resetMove (s : State) : s.resetMove.Inv :=
  resetMeetsInvariant.of_eq rfl rfl rfl rfl rfl

theorem State.Inv.refuse {s : State} (h : s.Inv) : s.refuse.Inv := h.of_eq rfl rfl rfl rfl rfl

/-- The fault entry invalidates its destinations and leaves the other registers; its code is one of 1 to 5. -/
theorem State.Inv.faultEntry {s : State} (h : s.Inv) (c : FaultCode) (dests : List FieldReg) :
    (s.faultEntry c dests).Inv where
  reduced r hr := by
    rw [State.faultEntry_vf] at hr
    have hd : r ∉ dests := fun hmem => by simp [s.invalidateAll_mem dests hmem] at hr
    obtain ⟨hf, hvf⟩ := s.invalidateAll_not_mem dests hd
    rw [State.faultEntry_f, hf]
    exact h.reduced r (hvf ▸ hr)
  finite := by simpa using h.finite
  noCause hf := by cases hf
  hasCause _ := c.code_range

/-- A write of a reduced value keeps the invariant. -/
theorem State.Inv.write {s : State} (h : s.Inv) {w : Write} (hw : ∀ r v, w = .reg r v → v.toNat < P) :
    (s.write w).Inv := by
  cases w with
  | block b v => exact h.of_eq rfl rfl rfl rfl rfl
  | infZero => exact h.of_eq rfl rfl h.finite.symm rfl rfl
  | reg r v =>
    refine ⟨fun r' hr' => ?_, h.finite, h.noCause, h.hasCause⟩
    by_cases hr : r' = r
    · simpa [State.write, hr] using hw r v rfl
    · simpa [State.write, hr] using h.reduced r' (by simpa [State.write, hr] using hr')

theorem State.Inv.commit {s : State} (h : s.Inv) {ws : List Write} (hws : ∀ r v, .reg r v ∈ ws → v.toNat < P) :
    (s.commit ws).Inv := by
  induction ws generalizing s with
  | nil => exact h
  | cons w ws ih =>
    have hw : (s.write w).Inv := h.write fun r v e => hws r v (e ▸ List.mem_cons_self)
    exact ih hw fun r v hv => hws r v (List.mem_cons_of_mem w hv)

theorem Ran.inv {i : Instr} {s t : State} (h : Ran i s t) (hs : s.Inv) : t.Inv := by
  cases h with
  | read n rsp _ => exact hs.of_eq rfl rfl rfl rfl rfl
  | refused _ => exact hs.refuse
  | completed ws _ hp => exact (hs.commit (plan_ok hp).reduced).of_eq rfl rfl rfl rfl rfl
  | faulted c dests _ _ => exact hs.faultEntry c dests

/-- Settles O17: the invariant does not look at the host's moves, reset establishes it, and each outcome of an
instruction and of an illegal word keeps it. -/
theorem stepKeepsInvariant : Obligations.StepKeepsInvariant := by
  intro s t hs h
  have htaken (rest : List HostMove) : ({ s with pending := rest } : State).Inv := hs.of_eq rfl rfl rfl rfl rfl
  obtain ⟨-, rfl⟩ | ⟨rest, -, rfl⟩ | ⟨r, rest, e, -, -, rfl⟩ | ⟨r, rest, i, -, -, hexec⟩ := step_cases h
  · exact hs
  · exact State.Inv.resetMove _
  · obtain h | h := State.illegalRequest_cases { s with pending := rest } <;> rw [h]
    · exact (htaken rest).refuse
    · exact (htaken rest).faultEntry _ _
  · exact (exec_ran hexec).inv (htaken rest)

/-! ## `INF` along a run (R27) -/

/-- What every step keeps holds after every run from a state where it holds. -/
theorem run_keeps {p : State → Prop} (hstep : ∀ s t, step s = .next t → p s → p t) (k : Nat) {s t : State}
    (h : core.run k s = .next t) (hs : p s) : p t := by
  induction k generalizing s with
  | zero => exact Host.Outcome.next.inj h ▸ hs
  | succ k ih =>
    rcases hn : core.step s with s' | f | r
    · refine ih ?_ (hstep s s' hn hs)
      simpa only [Host.Core.run, hn] using h
    · cases f
    · simp [Host.Core.run, hn] at h

/-- Every step leaves `INF` as it is or clears it. -/
theorem step_inf {s t : State} (h : step s = .next t) : t.inf = s.inf ∨ t.inf = false := by
  obtain ⟨-, rfl⟩ | ⟨rest, -, rfl⟩ | ⟨r, rest, e, -, -, rfl⟩ | ⟨r, rest, i, -, -, hexec⟩ := step_cases h
  · exact .inl rfl
  · exact .inr rfl
  · obtain h | h := State.illegalRequest_cases { s with pending := rest } <;> simp [h]
  · exact (exec_ran hexec).inf.imp id And.left

theorem step_keeps_inf_zero (s t : State) (h : step s = .next t) (hs : s.inf = false) : t.inf = false :=
  (step_inf h).elim (·.trans hs) id

/-- `INF` is bit 8 of the status word (R103). -/
theorem statusWord_inf (s : State) : (statusWord s).getLsbD 8 = s.inf := by
  change (0#6 ++ vbBits s.vb ++ vfBits s.vf ++ 0#7 ++ BitVec.ofBool s.inf ++ s.cause ++ 0#3 ++
    BitVec.ofBool s.flt).getLsbD 8 = s.inf
  simp only [BitVec.getLsbD_append]
  simp

/-- Settles O24: of the four outcomes only a completing `MAP` or `H2F` writes `INF`, and it writes 0. -/
theorem infinityFlagIsNeverSet : Obligations.InfinityFlagIsNeverSet := by
  refine ⟨fun src s t hs h ht => ?_, fun s t hs h ht => ?_, fun i s t hmap hh2f h => ?_, rfl, fun s t h ht => ?_,
    fun moves cfg k t h => ?_, statusWord_inf⟩
  · exact (exec_ran h).inf_cleared (.inr ⟨src, rfl⟩) hs ht
  · exact (exec_ran h).inf_cleared (.inl rfl) hs ht
  · refine (exec_ran h).inf.resolve_right ?_
    rintro ⟨-, hi | ⟨src, hi⟩⟩
    · exact hh2f hi
    · exact hmap src hi
  · by_contra hs
    simp [step_keeps_inf_zero s t h (by simpa using hs)] at ht
  · exact run_keeps (p := fun s => s.inf = false) step_keeps_inf_zero k h rfl

/-! ## What invalid registers and blocks hold is invisible (R24, R32, U1) -/

theorem State.SameVisible.source_eq {s s' : State} (h : s.SameVisible s') (r : FieldReg) : s'.source r = s.source r :=
  State.source_congr (by rw [h.vf]) (h.f r)

theorem State.SameVisible.sourceBlock_eq {s s' : State} (h : s.SameVisible s') (b : BlockIx) :
    s'.sourceBlock b = s.sourceBlock b :=
  State.sourceBlock_congr (by rw [h.vb]) (h.ib b)

theorem State.SameVisible.plan_eq {s s' : State} (h : s.SameVisible s') (i : Instr) : plan i s' = plan i s :=
  plan_congr h.cfg (fun r _ => h.source_eq r) fun b _ => h.sourceBlock_eq b

theorem State.SameVisible.respond {s s' : State} (h : s.SameVisible s') (ok : Bool) (data : ResponseData) :
    (s.respond ok data).SameVisible (s'.respond ok data) :=
  { h with response := rfl }

theorem State.SameVisible.takePending {s s' : State} (h : s.SameVisible s') (rest : List HostMove) :
    State.SameVisible { s with pending := rest } { s' with pending := rest } :=
  { h with pending := rfl }

theorem State.SameVisible.resetMove {s s' : State} (h : s.SameVisible s') : s.resetMove.SameVisible s'.resetMove where
  vf := rfl
  vb := rfl
  inf := rfl
  flt := rfl
  cause := rfl
  cfg := h.cfg
  draws := h.draws
  pending := h.pending
  response := rfl
  f _ _ := rfl
  ib _ _ := rfl

/-- A written register or block is equal in both states from then on; the others are as they were. -/
theorem State.SameVisible.write {s s' : State} (h : s.SameVisible s') (w : Write) :
    (s.write w).SameVisible (s'.write w) := by
  cases w with
  | infZero => exact { h with inf := rfl }
  | reg r v =>
    refine { h with vf := ?_, f := fun r' hr' => ?_ }
    · simp [State.write, h.vf]
    · by_cases hr : r' = r
      · simp [State.write, hr]
      · simpa [State.write, hr] using h.f r' (by simpa [State.write, hr] using hr')
  | block b v =>
    refine { h with vb := ?_, ib := fun b' hb' => ?_ }
    · simp [State.write, h.vb]
    · by_cases hb : b' = b
      · simp [State.write, hb]
      · simpa [State.write, hb] using h.ib b' (by simpa [State.write, hb] using hb')

theorem State.SameVisible.commit {s s' : State} (h : s.SameVisible s') (ws : List Write) :
    (s.commit ws).SameVisible (s'.commit ws) := by
  induction ws generalizing s s' with
  | nil => exact h
  | cons w ws ih => exact ih (h.write w)

/-- With equal draw counters both states draw the same free values. -/
theorem State.SameVisible.invalidate {s s' : State} (h : s.SameVisible s') (r : FieldReg) :
    (s.invalidate r).SameVisible (s'.invalidate r) := by
  refine { h with vf := ?_, draws := ?_, f := fun r' hr' => ?_ }
  · simp [h.vf]
  · simp [h.draws]
  · by_cases hr : r' = r
    · simp [hr, h.draws]
    · simpa [hr] using h.f r' (by simpa [hr] using hr')

theorem State.SameVisible.invalidateAll {s s' : State} (h : s.SameVisible s') (dests : List FieldReg) :
    (s.invalidateAll dests).SameVisible (s'.invalidateAll dests) := by
  induction dests generalizing s s' with
  | nil => exact h
  | cons r rs ih => exact ih (h.invalidate r)

theorem State.SameVisible.faultEntry {s s' : State} (h : s.SameVisible s') (c : FaultCode) (dests : List FieldReg) :
    (s.faultEntry c dests).SameVisible (s'.faultEntry c dests) :=
  { h.invalidateAll dests with flt := rfl, cause := rfl, response := rfl }

theorem State.SameVisible.ifReady {s s' : State} (h : s.SameVisible s') {run : State → State}
    (hrun : (run s).SameVisible (run s')) : (s.ifReady run).SameVisible (s'.ifReady run) := by
  rcases hs : s.flt with _ | _
  · rwa [State.ifReady_ready hs, State.ifReady_ready (h.flt.trans hs)]
  · rw [State.ifReady_faulted hs, State.ifReady_faulted (h.flt.trans hs)]
    exact h.respond _ _

theorem State.SameVisible.illegalRequest {s s' : State} (h : s.SameVisible s') :
    s.illegalRequest.SameVisible s'.illegalRequest :=
  h.ifReady (h.faultEntry _ _)

theorem State.SameVisible.statusWord_eq {s s' : State} (h : s.SameVisible s') : statusWord s' = statusWord s := by
  simp only [statusWord, h.vb, h.vf, h.inf, h.cause, h.flt]

/-- A read answers the same in both states: a valid register holds the same, an invalid one is read as a free value. -/
theorem State.SameVisible.exec_rdf {s s' : State} (h : s.SameVisible s') (r : FieldReg) :
    (execState (.rdf r) s).SameVisible (execState (.rdf r) s') := by
  have hvf : s'.vf.get r = s.vf.get r := by rw [h.vf]
  rcases hr : s.vf.get r with _ | _
  · simp only [execState, hvf, hr, h.draws, Bool.false_eq_true, if_false]
    have hdrawn : State.SameVisible { s with draws := s.draws + 1 } { s' with draws := s.draws + 1 } :=
      { h with draws := rfl }
    exact hdrawn.respond _ _
  · simp only [execState, hvf, hr, h.f r hr, if_true]
    exact h.respond _ _

theorem State.SameVisible.exec_rds {s s' : State} (h : s.SameVisible s') :
    (execState .rds s).SameVisible (execState .rds s') := by
  simp only [execState, h.statusWord_eq]
  exact h.respond _ _

theorem State.SameVisible.carryOut {s s' : State} (h : s.SameVisible s') (outcome : Except Raised (List Write)) :
    (s.carryOut outcome).SameVisible (s'.carryOut outcome) := by
  cases outcome with
  | error e => exact h.faultEntry e.1 e.2
  | ok ws => exact (h.commit ws).respond _ _

/-- An instruction has the same plan in both states, and is refused in both. -/
theorem State.SameVisible.exec {s s' : State} (h : s.SameVisible s') (i : Instr) :
    (execState i s).SameVisible (execState i s') := by
  by_cases hi : isRead i = true
  · cases i with
    | rdf r => exact h.exec_rdf r
    | rds => exact h.exec_rds
    | _ => cases hi
  · replace hi : isRead i = false := by simpa using hi
    rcases hs : s.flt with _ | _
    · rw [execState_ready hi hs, execState_ready hi (h.flt.trans hs), h.plan_eq]
      exact h.carryOut _
    · rw [execState_faulted hi hs, execState_faulted hi (h.flt.trans hs)]
      exact h.respond _ _

/-- Settles O21: both states have the same next move, and each thing a move can do treats them alike. -/
theorem invalidContentsAreInvisible : Obligations.InvalidContentsAreInvisible := by
  intro s s' t t' h ht ht'
  suffices ∃ u u', step s = .next u ∧ step s' = .next u' ∧ u.SameVisible u' by
    obtain ⟨u, u', hu, hu', huu'⟩ := this
    rw [ht] at hu
    rw [ht'] at hu'
    cases hu
    cases hu'
    exact huu'
  rcases hp : s.pending with _ | ⟨_ | _, rest⟩ <;> have hp' := h.pending.trans hp
  case nil => exact ⟨s, s', step_idle hp, step_idle hp', h⟩
  case cons.reset => exact ⟨_, _, step_reset hp, step_reset hp', (h.takePending rest).resetMove⟩
  case cons.request r =>
    rcases hd : decode r with e | i
    · exact ⟨_, _, step_illegal hp hd, step_illegal hp' hd, (h.takePending rest).illegalRequest⟩
    · exact ⟨_, _, step_instr hp hd, step_instr hp' hd, (h.takePending rest).exec i⟩

end Sys2Proof.Machine
end

section
/-! PROOFS for 20_memory.md: the bit order of the port (R44), its widths and answers (R42), repeated requests (R48) and the
idle step (R40).  `decodeWord_eq_withPayload` says once how the decoder uses the payload wires; `State.commit_commit` is why a
completed request may be issued again. -/

namespace Sys2Proof.Machine

/-- Settles O11: with nothing pending there is no move to take. -/
theorem idleStepChangesNothing : Obligations.IdleStepChangesNothing :=
  fun _ h => step_idle h

/-! ## How the decoder uses the payload wires (R42, R44) -/

/-- The instruction with its payload operand, if it has one, read from these wires (R44). -/
def withPayload (wires : PayloadBits) : Instr → Instr
  | .wrb b _ => .wrb b wires
  | .wrf r _ => .wrf r (wires.extractLsb' 0 256)
  | .rdf r => .rdf r
  | .rds => .rds
  | .dec b => .dec b
  | .h2f => .h2f
  | .map src => .map src
  | .sel => .sel

theorem map_operand {α : Type} (found : Option α) (make : α → Instr) (g : Instr → Instr) :
    (operand found make).map g = operand found fun a => g (make a) := by
  cases found <;> rfl

theorem map_noOperand (idx : BitVec 4) (i : Instr) (g : Instr → Instr) :
    (noOperand idx i).map g = noOperand idx (g i) :=
  apply_ite _ _ _ _

/-- The request word alone decides legality and the operand registers; the wires fill in the payload. -/
theorem decodeWord_eq_withPayload (iw : ReqWord) (p p' : PayloadBits) :
    decodeWord iw p' = (decodeWord iw p).map (withPayload p') := by
  simp only [decodeWord, apply_ite (Except.map (withPayload p')), map_operand, map_noOperand]
  rfl

theorem decodeWord_withPayload {iw : ReqWord} {p : PayloadBits} {i : Instr} (h : decodeWord iw p = .ok i)
    (p' : PayloadBits) : decodeWord iw p' = .ok (withPayload p' i) := by
  rw [decodeWord_eq_withPayload iw p p', h]
  rfl

theorem withPayload_of_decodeWord {iw : ReqWord} {p : PayloadBits} {i : Instr} (h : decodeWord iw p = .ok i) :
    withPayload p i = i :=
  Except.ok.inj ((decodeWord_withPayload h p).symm.trans h)

/-- The wires above an opcode's payload width are not read. -/
theorem withPayload_congr {i : Instr} {p p' : PayloadBits}
    (h : ∀ k, k < i.payloadWidth → p'.getLsbD k = p.getLsbD k) : withPayload p' i = withPayload p i := by
  cases i with
  | wrb b _ =>
    have hp : p' = p := BitVec.eq_of_getLsbD_eq h
    rw [hp]
  | wrf r _ =>
    have hlow : p'.extractLsb' 0 256 = p.extractLsb' 0 256 := BitVec.eq_of_getLsbD_eq fun k hk => by
      simpa [hk] using h k hk
    simp only [withPayload, hlow]
  | _ => rfl

/-! ## The bit order (R44) -/

theorem blockOfPayload_getElem (p : PayloadBits) (k : Nat) (hk : k < 48) :
    (blockOfPayload p)[k] = p.extractLsb' (376 - 8 * k) 8 :=
  Vector.getElem_ofFn hk

/-- Byte `i` of a bit vector, counted from the low end, is its base-256 digit `i`. -/
theorem extractLsb'_byte {w : Nat} (x : BitVec w) (i : Nat) :
    x.extractLsb' (8 * i) 8 = BitVec.ofNat 8 (x.toNat / 256 ^ i) := by
  rw [BitVec.extractLsb', Nat.shiftRight_eq_div_pow, Nat.pow_mul]

/-- The bytes of the block are the base-256 digits of the payload, the most significant one first. -/
theorem blockOfPayload_toList (p : PayloadBits) :
    (blockOfPayload p).toList = ((List.range 48).map fun i => BitVec.ofNat 8 (p.toNat / 256 ^ i)).reverse := by
  refine List.ext_getElem (by simp) fun k hk _ => ?_
  have hk : k < 48 := by simpa using hk
  have hpos : 376 - 8 * k = 8 * (47 - k) := by omega
  simp [blockOfPayload_getElem, hpos, extractLsb'_byte]

theorem os2ip_blockOfPayload (p : PayloadBits) : os2ip (blockOfPayload p).toList = p.toNat := by
  rw [blockOfPayload_toList, os2ip_reverse_digits]
  have hlt : p.toNat < 256 ^ 48 := by omega
  exact Nat.mod_eq_of_lt hlt

theorem readout_valid (v : Bool) (value : FieldBits) : (readout v value).getLsbD 256 = v := by
  change (BitVec.ofBool v ++ value).getLsbD 256 = v
  rw [BitVec.getLsbD_append]
  simp

theorem readout_value (v : Bool) (value : FieldBits) : (readout v value).extractLsb' 0 256 = value :=
  BitVec.extractLsb'_append_eq_right

/-- `FLT` is bit 0 of the status word (R103). -/
theorem statusWord_flt (s : State) : (statusWord s).getLsbD 0 = s.flt := by
  change (0#6 ++ vbBits s.vb ++ vfBits s.vf ++ 0#7 ++ BitVec.ofBool s.inf ++ s.cause ++ 0#3 ++
    BitVec.ofBool s.flt).getLsbD 0 = s.flt
  rw [BitVec.getLsbD_append]
  simp

/-- Settles O7: the block holds the base-256 digits of the payload, and a decoded instruction carries the wires it was
decoded with. -/
theorem payloadAndResponseBitOrder : Obligations.PayloadAndResponseBitOrder := by
  refine ⟨blockOfPayload_getElem, os2ip_blockOfPayload, fun iw p q b h => ?_, fun iw p r v h => ?_,
    fun v value => ⟨readout_valid v value, readout_value v value⟩, statusWord_flt⟩
  · have hi : Instr.wrb b p = .wrb b q := withPayload_of_decodeWord h
    exact (Instr.wrb.inj hi).2.symm
  · have hi : Instr.wrf r (p.extractLsb' 0 256) = .wrf r v := withPayload_of_decodeWord h
    exact (Instr.wrf.inj hi).2.symm

/-! ## The answers (R42) -/

/-- A read is always served, with data of its width. -/
theorem execState_read_response {i : Instr} (hi : isRead i = true) (s : State) :
    ∃ data, (execState i s).response = some ⟨true, data⟩ ∧ data.width = i.responseWidth := by
  cases i
  case rdf r =>
    rcases hr : s.vf.get r with _ | _
    · simp only [execState, hr]
      exact ⟨_, rfl, rfl⟩
    · simp only [execState, hr]
      exact ⟨_, rfl, rfl⟩
  case rds => exact ⟨_, rfl, rfl⟩
  all_goals cases hi

theorem responseWidth_of_not_read {i : Instr} (hi : isRead i = false) : i.responseWidth = 0 := by
  cases i
  case rdf r => cases hi
  case rds => cases hi
  all_goals rfl

/-- Any other request answers no data, and `ok = 1` when it ran in `READY` and the block still is. -/
theorem Ran.response {i : Instr} {s t : State} (h : Ran i s t) (hi : isRead i = false) :
    t.response = some ⟨!s.flt && !t.flt, .none⟩ := by
  cases h with
  | read n rsp hread => simp [hi] at hread
  | refused hs => simp [hs]
  | completed ws hs hp => simp [hs]
  | faulted c dests hs hp => simp

/-- Settles O27: the answer of a read and of any other request, and the decoder's use of the wires. -/
theorem responseFormat : Obligations.ResponseFormat := by
  refine ⟨fun i s t h => ?_, fun iw p p' i h hwires => ?_⟩
  · rcases hi : isRead i with _ | _
    · exact ⟨_, (exec_ran h).response hi, fun _ => (responseWidth_of_not_read hi).symm, fun _ => rfl, by simp⟩
    · obtain ⟨data, hrsp, hwidth⟩ := execState_read_response hi s
      rw [execState_of_next h]
      exact ⟨_, hrsp, fun _ => hwidth, nofun, fun _ => .inl rfl, fun _ => rfl⟩
  · rw [decodeWord_withPayload h p', withPayload_congr hwires, withPayload_of_decodeWord h]

/-! ## Repeated requests (R48) -/

theorem BlockFile.ext_get {α : Type} {file file' : BlockFile α} (h : ∀ b, file.get b = file'.get b) :
    file = file' := by
  cases file; cases file'
  simp only [BlockFile.mk.injEq]
  exact ⟨h .ib0, h .ib1⟩

/-- The state is its architectural part, the configuration, the counter and the two sides of the port. -/
theorem State.SameBlock.eq {s t : State} (h : s.SameBlock t) (hcfg : t.cfg = s.cfg) (hdraws : t.draws = s.draws)
    (hpending : t.pending = s.pending) (hresponse : t.response = s.response) : t = s := by
  obtain ⟨hf, hvf, hib, hvb, hinf, hflt, hcause⟩ := h
  cases s; cases t
  simp only [State.mk.injEq]
  exact ⟨hf, hvf, hib, hvb, hinf, hflt, hcause, hcfg, hdraws, hpending, hresponse⟩

@[simp] theorem State.commit_draws (s : State) (ws : List Write) : (s.commit ws).draws = s.draws :=
  State.commit_keeps State.draws (fun _ w => by cases w <;> rfl) s ws
@[simp] theorem State.commit_response (s : State) (ws : List Write) : (s.commit ws).response = s.response :=
  State.commit_keeps State.response (fun _ w => by cases w <;> rfl) s ws

/-- A block that is written is valid afterwards, and what it holds does not depend on the state. -/
theorem State.commit_written_block {ws : List Write} {b : BlockIx} {v : Block} (h : .block b v ∈ ws) (s s' : State) :
    (s.commit ws).vb.get b = true ∧ (s'.commit ws).ib.get b = (s.commit ws).ib.get b := by
  induction ws generalizing s s' v with
  | nil => cases h
  | cons w ws ih =>
    by_cases hws : ∃ v', .block b v' ∈ ws
    · obtain ⟨v', hv'⟩ := hws
      exact ih hv' _ _
    · have hframe := State.commit_block_frame (ws := ws) (b := b) (fun v' hv' => hws ⟨v', hv'⟩)
      obtain rfl : .block b v = w := (List.mem_cons.mp h).resolve_right fun hv => hws ⟨v, hv⟩
      simp [hframe, State.write]

/-- Writing a second time changes no register. -/
theorem State.commit_commit_reg (s : State) (ws : List Write) (r : FieldReg) :
    ((s.commit ws).commit ws).f.get r = (s.commit ws).f.get r ∧
    ((s.commit ws).commit ws).vf.get r = (s.commit ws).vf.get r := by
  by_cases hw : ∃ v, .reg r v ∈ ws
  · obtain ⟨v, hv⟩ := hw
    obtain ⟨hvalid, hsame⟩ := State.commit_written hv s (s.commit ws)
    exact ⟨hsame, ((s.commit ws).commit_keeps_valid ws hvalid).trans hvalid.symm⟩
  · exact State.commit_reg_frame (fun v hv => hw ⟨v, hv⟩) _

/-- Writing a second time changes no block. -/
theorem State.commit_commit_block (s : State) (ws : List Write) (b : BlockIx) :
    ((s.commit ws).commit ws).ib.get b = (s.commit ws).ib.get b ∧
    ((s.commit ws).commit ws).vb.get b = (s.commit ws).vb.get b := by
  by_cases hw : ∃ v, .block b v ∈ ws
  · obtain ⟨v, hv⟩ := hw
    obtain ⟨hvalid, hsame⟩ := State.commit_written_block hv s (s.commit ws)
    exact ⟨hsame, ((s.commit ws).commit_keeps_valid_block ws hvalid).trans hvalid.symm⟩
  · exact State.commit_block_frame (fun v hv => hw ⟨v, hv⟩) _

theorem State.commit_commit_inf (s : State) (ws : List Write) :
    ((s.commit ws).commit ws).inf = (s.commit ws).inf := by
  by_cases hw : .infZero ∈ ws
  · rw [State.commit_inf_zero (.inr hw), State.commit_inf_zero (.inr hw)]
  · exact State.commit_inf_frame hw _

/-- Making the same writes again changes nothing. -/
theorem State.commit_commit (s : State) (ws : List Write) : (s.commit ws).commit ws = s.commit ws := by
  refine State.SameBlock.eq ⟨?_, ?_, ?_, ?_, s.commit_commit_inf ws, by simp, by simp⟩ (by simp) (by simp) (by simp)
    (by simp)
  · exact FieldFile.ext_get fun r => (s.commit_commit_reg ws r).1
  · exact FieldFile.ext_get fun r => (s.commit_commit_reg ws r).2
  · exact BlockFile.ext_get fun b => (s.commit_commit_block ws b).1
  · exact BlockFile.ext_get fun b => (s.commit_commit_block ws b).2

theorem State.respondOk_commit (s : State) (ws : List Write) : s.respondOk.commit ws = (s.commit ws).respondOk := by
  induction ws generalizing s with
  | nil => rfl
  | cons w ws ih =>
    have hw : s.respondOk.write w = (s.write w).respondOk := by cases w <;> rfl
    rw [State.commit_cons, State.commit_cons, hw, ih]

/-- No request writes a register that it reads (R22). -/
theorem readsRegs_not_written {i : Instr} {r : FieldReg} (hr : r ∈ readsRegs i) : r ∉ writesRegs i := by
  cases i with
  | map src => cases src <;> revert r <;> decide
  | sel => revert r; decide
  | _ => cases hr

/-- The request that writes a block reads none. -/
theorem not_wrb_of_readsBlocks {i : Instr} {b : BlockIx} (hb : b ∈ readsBlocks i) (b' : BlockIx) (p : PayloadBits) :
    i ≠ .wrb b' p := by
  rintro rfl
  cases hb

/-- Whatever a request did, it left its own sources as they were, so its plan is the same afterwards. -/
theorem Ran.plan_eq {i : Instr} {s t : State} (h : Ran i s t) : plan i t = plan i s := by
  refine plan_congr h.cfg (fun r hr => ?_) fun b hb => ?_
  · obtain ⟨hf, hvf⟩ := h.reg_frame (readsRegs_not_written hr)
    exact State.source_congr hvf fun _ => hf
  · obtain ⟨hib, hvb⟩ := h.block_frame (b := b) (not_wrb_of_readsBlocks hb b)
    exact State.sourceBlock_congr hvb fun _ => hib

/-- A completed request has the same plan again, and its writes are there already. -/
theorem Ran.execState_eq_self {i : Instr} {s t : State} (h : Ran i s t) (hi : isRead i = false) (hs : s.flt = false)
    (ht : t.flt = false) : execState i t = t := by
  have hplan := h.plan_eq
  obtain ⟨ws, hp, rfl⟩ := h.completes hi hs ht
  calc execState i (s.commit ws).respondOk
      = ((s.commit ws).respondOk.commit ws).respondOk := by rw [execState_ready hi ht, hplan, hp]; rfl
    _ = (s.commit ws).respondOk := by rw [State.respondOk_commit, State.commit_commit]; rfl

/-- Settles O28: a read changes only the response and the draw counter; a completed request repeats its own writes. -/
theorem requestsAreIdempotent : Obligations.RequestsAreIdempotent := by
  refine ⟨fun i s t hi h => ?_, fun i s t hi hs h ht => ?_⟩
  · obtain ⟨n, rsp, heq⟩ := execState_read hi s
    rw [execState_of_next h, heq]
    exact ⟨rfl, rfl, rfl, rfl, rfl, rfl, rfl⟩
  · rw [exec_eq, (exec_ran h).execState_eq_self hi hs ht]

end Sys2Proof.Machine
end

section
/-! PROOFS for 30_encoding.md.  `decodeWord_eq_ok` inverts the decoder (an answered instruction has the fields of the word) and
`exists_decodeWord_iff` says which words it answers; the encoder, the list of R63, the opcode table of R64 and the illegal words
of R66 are read off these two.  The step's statements use the four outcomes `Ran` of an instruction. -/

namespace Sys2Proof

/-! ## The fields of a request word (R60) -/

/-- R60: a request word is the concatenation of opcode, zero nibble and index. -/
theorem append_fields (iw : ReqWord) : (opField iw ++ zeroField iw ++ idxField iw).cast (by decide) = iw := by
  ext k hk
  simp only [opField, zeroField, idxField, BitVec.getElem_cast, BitVec.getElem_append, BitVec.getElem_extractLsb']
  split
  · simp [BitVec.getLsbD_eq_getElem hk]
  · split <;> (rw [← BitVec.getLsbD_eq_getElem]; congr 1; omega)

/-- Two request words are equal when their three fields are. -/
theorem word_eq_iff_fields {iw iw' : ReqWord} :
    iw = iw' ↔ opField iw = opField iw' ∧ zeroField iw = zeroField iw' ∧ idxField iw = idxField iw' := by
  refine ⟨fun h => by simp [h], fun ⟨hop, hzero, hidx⟩ => ?_⟩
  rw [← append_fields iw, ← append_fields iw', hop, hzero, hidx]

/-- Matching under a mask is matching field by field. -/
theorem and_eq_iff_fields {iw mask pattern : ReqWord} : iw &&& mask = pattern ↔
    opField iw &&& opField mask = opField pattern ∧ zeroField iw &&& zeroField mask = zeroField pattern ∧
      idxField iw &&& idxField mask = idxField pattern := by
  rw [word_eq_iff_fields]
  simp only [opField, zeroField, idxField, BitVec.extractLsb'_and]

/-! ## The operands of the opcodes (R43, R65) -/

theorem FieldReg.ofIdx_eq_some {idx : BitVec 4} {r : FieldReg} : FieldReg.ofIdx idx = some r ↔ idx = r.idx := by
  cases r <;> revert idx <;> decide

theorem BlockIx.ofIdx_eq_some {idx : BitVec 4} {b : BlockIx} : BlockIx.ofIdx idx = some b ↔ idx = b.idx := by
  cases b <;> revert idx <;> decide

theorem MapSrc.ofIdx_eq_some {idx : BitVec 4} {src : MapSrc} : MapSrc.ofIdx idx = some src ↔ idx = src.idx := by
  cases src <;> revert idx <;> decide

theorem FieldReg.ofWritableIdx_eq_some {idx : BitVec 4} {r : FieldReg} :
    FieldReg.ofWritableIdx idx = some r ↔ idx = r.idx ∧ r.hostWritable = true := by
  cases r <;> revert idx <;> decide

theorem FieldReg.isSome_ofIdx (idx : BitVec 4) : (FieldReg.ofIdx idx).isSome = true ↔ idx.toNat < 8 := by
  revert idx; decide

theorem BlockIx.isSome_ofIdx (idx : BitVec 4) : (BlockIx.ofIdx idx).isSome = true ↔ idx.toNat < 2 := by
  revert idx; decide

theorem MapSrc.isSome_ofIdx (idx : BitVec 4) : (MapSrc.ofIdx idx).isSome = true ↔ idx.toNat < 2 := by
  revert idx; decide

theorem FieldReg.isSome_ofWritableIdx (idx : BitVec 4) :
    (FieldReg.ofWritableIdx idx).isSome = true ↔ idx.toNat < 6 := by
  revert idx; decide

theorem operand_eq_ok {α : Type} {found : Option α} {make : α → Instr} {i : Instr} :
    operand found make = .ok i ↔ ∃ a, found = some a ∧ make a = i := by
  cases found <;> simp [operand]

theorem noOperand_eq_ok {idx : BitVec 4} {i i' : Instr} : noOperand idx i = .ok i' ↔ idx = 0#4 ∧ i = i' := by
  unfold noOperand
  split <;> simp [*]

theorem exists_operand_iff {α : Type} {found : Option α} {make : α → Instr} :
    (∃ i, operand found make = .ok i) ↔ found.isSome = true := by
  cases found <;> simp [operand]

theorem exists_noOperand_iff {idx : BitVec 4} {i : Instr} : (∃ i', noOperand idx i = .ok i') ↔ idx.toNat < 1 := by
  have hzero : idx = 0#4 ↔ idx.toNat < 1 := by revert idx; decide
  simp [noOperand_eq_ok, hzero]

/-! ## What the decoder answers (R65) -/

/-- An answered instruction is well formed and has the fields of the word it was read from. -/
theorem decodeWord_eq_ok {iw : ReqWord} {p : PayloadBits} {i : Instr} (h : decodeWord iw p = .ok i) :
    i.WellFormed ∧ i.op = opField iw ∧ zeroField iw = 0#4 ∧ i.idx = idxField iw := by
  unfold decodeWord at h
  split_ifs at h with hzero hwrb hwrf hrdf hrds hdec hh2f hmap hsel <;> replace hzero := not_not.mp hzero
  · obtain ⟨b, hb, rfl⟩ := operand_eq_ok.mp h
    exact ⟨rfl, hwrb.symm, hzero, (BlockIx.ofIdx_eq_some.mp hb).symm⟩
  · obtain ⟨r, hr, rfl⟩ := operand_eq_ok.mp h
    obtain ⟨hidx, hw⟩ := FieldReg.ofWritableIdx_eq_some.mp hr
    exact ⟨hw, hwrf.symm, hzero, hidx.symm⟩
  · obtain ⟨r, hr, rfl⟩ := operand_eq_ok.mp h
    exact ⟨rfl, hrdf.symm, hzero, (FieldReg.ofIdx_eq_some.mp hr).symm⟩
  · obtain ⟨hidx, rfl⟩ := noOperand_eq_ok.mp h
    exact ⟨rfl, hrds.symm, hzero, hidx.symm⟩
  · obtain ⟨b, hb, rfl⟩ := operand_eq_ok.mp h
    exact ⟨rfl, hdec.symm, hzero, (BlockIx.ofIdx_eq_some.mp hb).symm⟩
  · obtain ⟨hidx, rfl⟩ := noOperand_eq_ok.mp h
    exact ⟨rfl, hh2f.symm, hzero, hidx.symm⟩
  · obtain ⟨src, hsrc, rfl⟩ := operand_eq_ok.mp h
    exact ⟨rfl, hmap.symm, hzero, (MapSrc.ofIdx_eq_some.mp hsrc).symm⟩
  · obtain ⟨hidx, rfl⟩ := noOperand_eq_ok.mp h
    exact ⟨rfl, hsel.symm, hzero, hidx.symm⟩

theorem word_of_decodeWord {iw : ReqWord} {p : PayloadBits} {i : Instr} (h : decodeWord iw p = .ok i) : i.word = iw := by
  obtain ⟨-, hop, hzero, hidx⟩ := decodeWord_eq_ok h
  exact word_eq_iff_fields.mpr
    ⟨(opField_word i).trans hop, (zeroField_word i).trans hzero.symm, (idxField_word i).trans hidx⟩

/-- R43: how many indices an opcode allows, none if it is not assigned. -/
def idxLimit (op : BitVec 8) : Nat :=
  if op = 0x01#8 then 2
  else if op = 0x02#8 then 6
  else if op = 0x03#8 then 8
  else if op = 0x04#8 then 1
  else if op = 0x10#8 then 2
  else if op = 0x11#8 then 1
  else if op = 0x12#8 then 2
  else if op = 0x13#8 then 1
  else 0

/-- The decoder answers exactly the words with a zero nibble and an index that their opcode allows. -/
theorem exists_decodeWord_iff {iw : ReqWord} {p : PayloadBits} : (∃ i, decodeWord iw p = .ok i) ↔
    zeroField iw = 0#4 ∧ (idxField iw).toNat < idxLimit (opField iw) := by
  by_cases hzero : zeroField iw = 0#4
  · simp only [decodeWord, idxLimit, hzero, ne_eq, not_true_eq_false, if_false, true_and]
    split_ifs
    · exact exists_operand_iff.trans (BlockIx.isSome_ofIdx _)
    · exact exists_operand_iff.trans (FieldReg.isSome_ofWritableIdx _)
    · exact exists_operand_iff.trans (FieldReg.isSome_ofIdx _)
    · exact exists_noOperand_iff
    · exact exists_operand_iff.trans (BlockIx.isSome_ofIdx _)
    · exact exists_noOperand_iff
    · exact exists_operand_iff.trans (MapSrc.isSome_ofIdx _)
    · exact exists_noOperand_iff
    · simp
  · simp [decodeWord, hzero]

theorem exists_decodeWord_error_iff {iw : ReqWord} {p : PayloadBits} :
    (∃ e, decodeWord iw p = .error e) ↔ ¬ ∃ i, decodeWord iw p = .ok i := by
  cases decodeWord iw p <;> simp

/-- The words that decode to an instruction of one opcode. -/
theorem exists_decodeWord_op_iff {iw : ReqWord} {p : PayloadBits} {op : BitVec 8} :
    (∃ i, decodeWord iw p = .ok i ∧ i.op = op) ↔
      opField iw = op ∧ zeroField iw = 0#4 ∧ (idxField iw).toNat < idxLimit op := by
  constructor
  · rintro ⟨i, hi, rfl⟩
    obtain ⟨-, hop, -⟩ := decodeWord_eq_ok hi
    exact ⟨hop.symm, hop ▸ exists_decodeWord_iff.mp ⟨i, hi⟩⟩
  · rintro ⟨rfl, hlegal⟩
    obtain ⟨i, hi⟩ := exists_decodeWord_iff (p := p).mpr hlegal
    obtain ⟨-, hop, -⟩ := decodeWord_eq_ok hi
    exact ⟨i, hi, hop⟩

end Sys2Proof

namespace Sys2Proof.Machine

/-! ## Decoding an encoded instruction (R60, R62) -/

/-- Decoding the word of a well-formed instruction, with any wires: every opcode and every index selects its own arm. -/
theorem decodeWord_word {i : Instr} (hi : i.WellFormed) (p : PayloadBits) :
    decodeWord i.word p = .ok (withPayload p i) := by
  simp only [decodeWord, opField_word, zeroField_word, idxField_word]
  cases i with
  | wrb b _ => exact operand_eq_ok.mpr ⟨b, BlockIx.ofIdx_eq_some.mpr rfl, rfl⟩
  | wrf r _ => exact operand_eq_ok.mpr ⟨r, FieldReg.ofWritableIdx_eq_some.mpr ⟨rfl, hi⟩, rfl⟩
  | rdf r => exact operand_eq_ok.mpr ⟨r, FieldReg.ofIdx_eq_some.mpr rfl, rfl⟩
  | dec b => exact operand_eq_ok.mpr ⟨b, BlockIx.ofIdx_eq_some.mpr rfl, rfl⟩
  | map src => exact operand_eq_ok.mpr ⟨src, MapSrc.ofIdx_eq_some.mpr rfl, rfl⟩
  | rds => rfl
  | h2f => rfl
  | sel => rfl

/-- The wires the encoder drives carry the payload operand. -/
theorem withPayload_payload (i : Instr) : withPayload i.payload i = i := by
  cases i with
  | wrf r v =>
    have hlow : (v.setWidth 384).extractLsb' 0 256 = v := by
      ext k hk
      simpa [hk] using fun _ => hk.trans (by decide)
    simp only [withPayload, Instr.payload, hlow]
  | _ => rfl

/-- Settles O2: the word selects the instruction's own arm, and the wires carry its payload. -/
theorem decodeOfEncode : Obligations.DecodeOfEncode := fun i hi =>
  (decodeWord_word hi i.payload).trans (congrArg Except.ok (withPayload_payload i))

/-- Settles O3: an answered instruction has the fields of the word, and a word is its fields. -/
theorem decodedInstructionEncodesToItsWord : Obligations.DecodedInstructionEncodesToItsWord := fun _ _ h =>
  ⟨(decodeWord_eq_ok h).1, word_of_decodeWord h⟩

/-! ## The 23 legal words (R63) -/

theorem legal_of_mem_legalWords {iw : ReqWord} (h : iw ∈ legalWords) :
    zeroField iw = 0#4 ∧ (idxField iw).toNat < idxLimit (opField iw) := by
  have hall : legalWords.all fun w => decide (zeroField w = 0#4 ∧ (idxField w).toNat < idxLimit (opField w)) := by
    decide
  exact of_decide_eq_true (List.all_eq_true.mp hall iw h)

theorem word_mem_legalWords {i : Instr} (hi : i.WellFormed) : i.word ∈ legalWords := by
  cases i <;> simp only [Instr.word, Instr.op, Instr.idx]
  case wrb b _ => cases b <;> decide
  case wrf r _ =>
    cases r
    case x => cases hi
    case y => cases hi
    all_goals decide
  case rdf r => cases r <;> decide
  case dec b => cases b <;> decide
  case map src => cases src <;> decide
  all_goals decide

/-- Settles O1: each listed word has fields the decoder answers, and the word of each well-formed instruction is listed. -/
theorem legalWordsAreThe23Listed : Obligations.LegalWordsAreThe23Listed := by
  refine fun iw p => ⟨fun ⟨i, hi⟩ => ?_, fun h => exists_decodeWord_iff.mpr (legal_of_mem_legalWords h)⟩
  exact word_of_decodeWord hi ▸ word_mem_legalWords (decodeWord_eq_ok hi).1

/-! ## The opcode table (R64) -/

/-- A mask that covers the opcode and the zero nibble fixes both; only the index bits are left to compare. -/
theorem match_iff {iw mask pattern : ReqWord} (hmask : opField mask = 0xFF#8 ∧ zeroField mask = 0xF#4)
    (hzero : zeroField pattern = 0#4) : iw &&& mask = pattern ↔
      opField iw = opField pattern ∧ zeroField iw = 0#4 ∧ idxField iw &&& idxField mask = idxField pattern := by
  have hop : ∀ op : BitVec 8, op &&& 0xFF#8 = op := fun _ => BitVec.and_allOnes
  have hnibble : ∀ nibble : BitVec 4, nibble &&& 0xF#4 = nibble := fun _ => BitVec.and_allOnes
  rw [and_eq_iff_fields, hmask.1, hmask.2, hzero, hop, hnibble]

theorem opcodeTable_fields : ∀ row ∈ opcodeTable,
    (opField row.mask = 0xFF#8 ∧ zeroField row.mask = 0xF#4) ∧ zeroField row.pattern = 0#4 := by
  decide

theorem row_match_iff {row : OpcodeRow} (hrow : row ∈ opcodeTable) {iw : ReqWord} :
    iw &&& row.mask = row.pattern ↔ opField iw = opField row.pattern ∧ zeroField iw = 0#4 ∧
      idxField iw &&& idxField row.mask = idxField row.pattern :=
  match_iff (opcodeTable_fields row hrow).1 (opcodeTable_fields row hrow).2

/-- The index bits of a row's mask leave free the indices its opcode allows, `WRF` aside (R64). -/
theorem row_idx_iff : ∀ row ∈ opcodeTable, ∀ idx : BitVec 4,
    (idx &&& idxField row.mask = idxField row.pattern ∧ (row.mnemonic = "WRF" → idx.toNat ≤ 5)) ↔
      idx.toNat < idxLimit (opField row.pattern) := by
  decide

/-- A row is known by its opcode. -/
theorem row_eq_of_op : ∀ row ∈ opcodeTable, ∀ row' ∈ opcodeTable,
    opField row.pattern = opField row'.pattern → row = row' := by
  decide

/-- Mnemonics and opcodes name the same rows (R62). -/
theorem mnemonic_eq_iff_op {row : OpcodeRow} (hrow : row ∈ opcodeTable) (i : Instr) :
    i.mnemonic = row.mnemonic ↔ i.op = opField row.pattern := by
  cases i <;> simp only [Instr.mnemonic, Instr.op] <;> revert row <;> decide

theorem op_eq_wrf_iff {i : Instr} : i.op = 0x02#8 ↔ ∃ r v, i = .wrf r v := by
  cases i <;> simp [Instr.op]

/-- The two exact pairs of `WRF` leave free the indices 0 to 5. -/
theorem wrf_match_iff {iw : ReqWord} :
    (iw &&& 0xFFFC#16 = 0x0200#16 ∨ iw &&& 0xFFFE#16 = 0x0204#16) ↔
      opField iw = 0x02#8 ∧ zeroField iw = 0#4 ∧ (idxField iw).toNat < idxLimit 0x02#8 := by
  have hidx : ∀ idx : BitVec 4, (idx &&& idxField 0xFFFC#16 = idxField 0x0200#16 ∨
      idx &&& idxField 0xFFFE#16 = idxField 0x0204#16) ↔ idx.toNat < idxLimit 0x02#8 := by decide
  have hop : opField 0x0200#16 = 0x02#8 ∧ opField 0x0204#16 = 0x02#8 := by decide
  rw [match_iff (by decide) (by decide), match_iff (by decide) (by decide), hop.1, hop.2, ← hidx, and_or_left,
    and_or_left]

/-- Settles O4: a mask fixes the opcode and the zero nibble and leaves free the indices the opcode allows, and the words with
such an index are those that decode to an instruction of that opcode. -/
theorem opcodeTableSelectsTheDecodedRow : Obligations.OpcodeTableSelectsTheDecodedRow := by
  refine ⟨rfl, fun iw p row hrow => ?_, fun iw row hrow row' hrow' h h' => ?_, fun iw p => ?_⟩
  · rw [row_match_iff hrow, and_assoc, and_assoc, row_idx_iff row hrow, ← exists_decodeWord_op_iff (p := p)]
    simp only [mnemonic_eq_iff_op hrow]
  · obtain ⟨hop, -⟩ := (row_match_iff hrow).mp h
    obtain ⟨hop', -⟩ := (row_match_iff hrow').mp h'
    exact row_eq_of_op row hrow row' hrow' (hop.symm.trans hop')
  · rw [wrf_match_iff, ← exists_decodeWord_op_iff (p := p)]
    simp only [op_eq_wrf_iff]
    exact ⟨fun ⟨_, hi, r, v, hrv⟩ => ⟨r, v, hrv ▸ hi⟩, fun ⟨r, v, hi⟩ => ⟨_, hi, r, v, rfl⟩⟩

/-! ## Illegal words (R66, R151) -/

theorem illegalWord_iff {iw : ReqWord} :
    IllegalWord iw ↔ ¬ (zeroField iw = 0#4 ∧ (idxField iw).toNat < idxLimit (opField iw)) := by
  simp only [IllegalWord, exists_decodeWord_error_iff, exists_decodeWord_iff, forall_const]

/-- R66: the fields outside the decoder's table, opcode by opcode. -/
theorem not_legal_iff (op : BitVec 8) (idx : BitVec 4) : ¬ idx.toNat < idxLimit op ↔
    op ∉ [0x01#8, 0x02#8, 0x03#8, 0x04#8, 0x10#8, 0x11#8, 0x12#8, 0x13#8] ∨
    (op ∈ [0x01#8, 0x10#8, 0x12#8] ∧ 2 ≤ idx.toNat) ∨ (op = 0x02#8 ∧ 6 ≤ idx.toNat) ∨
    (op = 0x03#8 ∧ 8 ≤ idx.toNat) ∨ (op ∈ [0x04#8, 0x11#8, 0x13#8] ∧ idx ≠ 0#4) := by
  have hzero : idx ≠ 0#4 ↔ 1 ≤ idx.toNat := by revert idx; decide
  rw [Nat.not_lt, hzero]
  unfold idxLimit
  split_ifs <;> simp [*]

theorem step_illegal_ready {s : State} {r : Request} {rest : List HostMove} {e : Illegal} (hs : s.flt = false)
    (hp : s.pending = .request r :: rest) (hd : decode r = .error e) :
    step s = .next { s with pending := rest, flt := true, cause := 1#4, response := notOk } := by
  have hready : ({ s with pending := rest } : State).flt = false := hs
  rw [step_illegal hp hd, State.illegalRequest, State.ifReady_ready hready, State.faultEntry_nil]
  rfl

/-- Settles O5: the illegal words are those whose fields the decoder does not answer; the fault entry has no destinations. -/
theorem illegalWordsFault : Obligations.IllegalWordsFault := by
  refine ⟨fun iw p => ?_, illegalWord_iff.mpr (by decide), illegalWord_iff.mpr (by decide),
    fun s r rest e => step_illegal_ready⟩
  rw [exists_decodeWord_error_iff, exists_decodeWord_iff, not_and_or, not_legal_iff]

/-! ## Words of the table -/

theorem decodeTableWord_eq_some {nbits w : Nat} {i : Instr} :
    decodeTableWord nbits w = some i ↔ decode (requestOfBits nbits w) = .ok i := by
  unfold decodeTableWord
  cases decode (requestOfBits nbits w) <;> simp

theorem decodeTableWord_eq_none {nbits w : Nat} :
    decodeTableWord nbits w = none ↔ ∃ e, decode (requestOfBits nbits w) = .error e := by
  unfold decodeTableWord
  cases decode (requestOfBits nbits w) <;> simp

/-- The bits of an encoded request decode to its instruction. -/
theorem decodeTableWord_encode {nbits w : Nat} {i : Instr} (hi : i.WellFormed) (h : requestOfBits nbits w = encode i) :
    decodeTableWord nbits w = some i :=
  decodeTableWord_eq_some.mpr (h ▸ decodeOfEncode i hi)

/-- Settles O6: the bits are those of the encoder, and `WRF 6` is no legal word. -/
theorem wordsOfTheTableDecode : Obligations.WordsOfTheTableDecode := by
  have hwrf6 : IllegalWord 0x0206#16 := illegalWord_iff.mpr (by decide)
  exact ⟨decodeTableWord_encode rfl (by decide), decodeTableWord_encode rfl (by decide),
    decodeTableWord_encode rfl (by decide), decodeTableWord_encode rfl (by decide),
    decodeTableWord_encode rfl (by decide), decodeTableWord_encode rfl (by decide),
    decodeTableWord_encode rfl (by decide), decodeTableWord_encode rfl (by decide),
    decodeTableWord_eq_none.mpr (hwrf6 _)⟩

/-! ## Pseudo-instructions (R70) -/

theorem os2ip_lt (s : List Byte) : os2ip s < 2 ^ (8 * s.length) := by
  induction s using List.reverseRecOn with
  | nil => simp [os2ip]
  | append_singleton s b ih =>
    rw [os2ip_concat, List.length_append, List.length_singleton, mul_add, pow_add]
    have hb : b.toNat < 256 := b.isLt
    omega

/-- `OS2IP` loses nothing in a bit vector of at least 8 bits per byte. -/
theorem os2ip_toNat_ofNat {w : Nat} {s : List Byte} (h : 8 * s.length ≤ w) :
    (BitVec.ofNat w (os2ip s)).toNat = os2ip s := by
  rw [BitVec.toNat_ofNat, Nat.mod_eq_of_lt ((os2ip_lt s).trans_le (Nat.pow_le_pow_right Nat.two_pos h))]

/-- At most 48 bytes fit the payload of a `WRB` (R44). -/
theorem payloadOfBytes_toNat {s : List Byte} (h : s.length ≤ 48) : (payloadOfBytes s).toNat = os2ip s :=
  os2ip_toNat_ofNat (by omega)

/-- Settles O8: the words do not depend on the payloads, and each payload is its operand, whose value fits its width. -/
theorem pseudoInstructionsExpand : Obligations.PseudoInstructionsExpand := by
  refine ⟨fun s => ?_, fun s => ?_, fun x1 x2 gx1 gx2 => ?_, fun u => ?_⟩
  · simp [pseudoHtf, pseudoLd96, pseudoRdp, encode, Instr.word, Instr.op, Instr.idx, BlockIx.idx, FieldReg.idx]
  · simp [pseudoLd96, encode, Instr.payload, payloadOfBytes_toNat]
  · simp [pseudoLdc, encode, Instr.word, Instr.op, Instr.idx, FieldReg.idx, Instr.payload]
  · simp [pseudoMapu, pseudoRdp, encode, Instr.word, Instr.op, Instr.idx, FieldReg.idx, MapSrc.idx, Instr.payload]

/-! ## The step (R68) -/

/-- Settles O9: the move is taken and its request decodes. -/
theorem stepRunsTheDecodedInstruction : Obligations.StepRunsTheDecodedInstruction :=
  fun _ _ _ i hp hd => (step_instr hp hd).trans (exec_eq i).symm

/-- Settles O10: the presented request is the first move, and taking it leaves the state as it was. -/
theorem presentedWordRunsNext : Obligations.PresentedWordRunsNext := fun s _ _ _ h =>
  stepRunsTheDecodedInstruction _ _ s.pending _ (State.present_pending s _) (decodeTableWord_eq_some.mp h)

/-- What `RDF` answers: the valid bit, and the register's value if it is valid (R102). -/
theorem execState_rdf_response (r : FieldReg) (s : State) : ∃ value,
    (execState (.rdf r) s).response = some ⟨true, .register (readout (s.vf.get r) value)⟩ ∧
      (s.vf.get r = true → value = s.f.get r) := by
  rcases hr : s.vf.get r with _ | _
  · exact ⟨Config.unspecified s.draws, by simp [execState, hr], nofun⟩
  · exact ⟨s.f.get r, by simp [execState, hr], fun _ => rfl⟩

/-- In `FAULTED` every request but the reads is refused, legal or not (R163). -/
theorem step_refused {s : State} {r : Request} {rest : List HostMove} (hs : s.flt = true)
    (hp : s.pending = .request r :: rest) (hread : ∀ i, decode r = .ok i → isRead i = false) :
    step s = .next { s with pending := rest, response := notOk } := by
  have hfaulted : ({ s with pending := rest } : State).flt = true := hs
  rcases hd : decode r with e | i
  · rw [step_illegal hp hd, State.illegalRequest, State.ifReady_faulted hfaulted]
    rfl
  · rw [step_instr hp hd, execState_faulted (hread i hd) hfaulted]
    rfl

/-- An instruction in `READY` completes with `ok = 1` or raises a fault with `ok = 0`. -/
theorem execState_ready_answer (i : Instr) {s : State} (hs : s.flt = false) :
    ((execState i s).flt = false ∧ ∃ data, (execState i s).response = some ⟨true, data⟩) ∨
      ((execState i s).flt = true ∧ (execState i s).response = notOk) := by
  rcases hi : isRead i with _ | _
  · have hrsp := (execState_ran i s).response hi
    rcases ht : (execState i s).flt with _ | _
    · exact .inl ⟨rfl, .none, by simpa [hs, ht] using hrsp⟩
    · exact .inr ⟨rfl, by simpa [hs, ht, notOk] using hrsp⟩
  · obtain ⟨data, hrsp, -⟩ := execState_read_response hi s
    obtain ⟨n, rsp, heq⟩ := execState_read hi s
    exact .inl ⟨heq ▸ hs, data, hrsp⟩

/-- Settles O12: in `FAULTED` a read is served and the rest is refused; in `READY` a word that does not decode faults without
destinations and any other is executed. -/
theorem sequencerStep : Obligations.SequencerStep := by
  rintro s s1 r rest hp rfl
  refine ⟨fun hs => ⟨fun reg hd => ?_, fun hd => step_instr hp hd, fun hrdf hrds => ?_⟩,
    fun hs => ⟨fun e => step_illegal_ready hs hp, fun i hd => ?_⟩⟩
  · obtain ⟨value, hrsp, hvalue⟩ := execState_rdf_response reg { s with pending := rest }
    obtain ⟨n, rsp, heq⟩ := execState_read (i := .rdf reg) rfl { s with pending := rest }
    refine ⟨_, value, step_instr hp hd, ?_, ?_, ?_, hrsp, hvalue⟩ <;> rw [heq]
    exact ⟨rfl, rfl, rfl, rfl, rfl, rfl, rfl⟩
  · refine step_refused hs hp fun i hd => ?_
    cases i with
    | rdf reg => exact absurd hd (hrdf reg)
    | rds => exact absurd hd hrds
    | _ => rfl
  · exact ⟨stepRunsTheDecodedInstruction s r rest i hp hd, _, exec_eq i, execState_ready_answer i hs⟩

end Sys2Proof.Machine
end

section
/-! PROOFS for 40_field_primitives.md.  The ring laws are those of `ZMod P` under `toZ`; the sign bit is the lowest bit of the
integer, which negation flips because `P` is odd; the inverse is what Fermat's little theorem makes of `a ^ (P - 2)`. -/

namespace Sys2Proof.Machine

/-! ## Addition, subtraction and multiplication -/

/-- Both branches of R83 are below `P`, so the reduction changes neither. -/
theorem fsub_val (a b : Fq) :
    (fsub a b).val = if b.val ≤ a.val then a.val - b.val else a.val + P - b.val := by
  have ha := a.isLt
  refine Nat.mod_eq_of_lt ?_
  split <;> omega

@[simp] theorem toZ_fsub (a b : Fq) : toZ (fsub a b) = toZ a - toZ b := by
  rw [fsub, toZ_reduce]
  split
  case isTrue hle => rw [Nat.cast_sub hle, toZ, toZ]
  case isFalse =>
    have hle : b.val ≤ a.val + P := b.isLt.le.trans (Nat.le_add_left P a.val)
    rw [Nat.cast_sub hle, Nat.cast_add, ZMod.natCast_self, add_zero, toZ, toZ]

theorem fadd_comm (a b : Fq) : fadd a b = fadd b a :=
  toZ_injective (by rw [toZ_fadd, toZ_fadd, add_comm])

theorem fmul_comm (a b : Fq) : fmul a b = fmul b a :=
  toZ_injective (by rw [toZ_fmul, toZ_fmul, mul_comm])

theorem fsub_eq_fadd_fneg (a b : Fq) : fsub a b = fadd a (fneg b) :=
  toZ_injective (by rw [toZ_fsub, toZ_fadd, toZ_fneg, sub_eq_add_neg])

theorem fadd_assoc (a b c : Fq) : fadd (fadd a b) c = fadd a (fadd b c) :=
  toZ_injective (by simp only [toZ_fadd, add_assoc])

theorem fmul_assoc (a b c : Fq) : fmul (fmul a b) c = fmul a (fmul b c) :=
  toZ_injective (by simp only [toZ_fmul, mul_assoc])

theorem fmul_fadd (a b c : Fq) : fmul a (fadd b c) = fadd (fmul a b) (fmul a c) :=
  toZ_injective (by simp only [toZ_fmul, toZ_fadd, mul_add])

@[simp] theorem fadd_zero (a : Fq) : fadd a Fq.zero = a := toZ_injective (by simp)

@[simp] theorem fmul_zero (a : Fq) : fmul a Fq.zero = Fq.zero := toZ_injective (by simp)

@[simp] theorem fmul_one (a : Fq) : fmul a Fq.one = a := toZ_injective (by simp)

@[simp] theorem fsub_self (a : Fq) : fsub a a = Fq.zero := toZ_injective (by simp)

/-- Settles O49: the values are the rules' own formulas, and each law is the law of `ZMod P` of the same name. -/
theorem fieldArithmeticLaws : Obligations.FieldArithmeticLaws :=
  ⟨fun a b => ⟨rfl, rfl, rfl, fsub_val a b⟩,
   fun a b => ⟨fadd_comm a b, fmul_comm a b, fsub_eq_fadd_fneg a b⟩,
   fun a b c => ⟨fadd_assoc a b c, fmul_assoc a b c, fmul_fadd a b c⟩,
   fun a => ⟨fadd_zero a, fmul_zero a, fmul_one a, fsub_self a⟩⟩

/-! ## The sign bit -/

/-- The lowest bit of byte 0 of `LE32 a` is the lowest bit of the integer (R92). -/
theorem lsb_eq_ofNat (a : Fq) : lsb a = BitVec.ofNat 1 a.val := by
  have hbyte : (toLe32 a).headD 0#8 = BitVec.ofNat 8 a.val := congrArg (BitVec.ofNat 8) (Nat.div_one a.val)
  rw [lsb, hbyte]
  refine BitVec.eq_of_toNat_eq ?_
  simp [Nat.and_one_is_mod]

/-- Settles O51: one bit of an integer is the integer modulo 2. -/
theorem signBitIsParity : Obligations.SignBitIsParity := fun a =>
  ⟨(lsb_eq_ofNat a).trans (BitVec.eq_of_toNat_eq (by simp)), rfl⟩

/-! ## Negation -/

/-- R85: only `P - 0` is not below `P` already. -/
theorem fneg_val (a : Fq) : (fneg a).val = if a = Fq.zero then 0 else P - a.val := by
  split
  case isTrue h => rw [h]; exact Nat.mod_self P
  case isFalse h =>
    have hpos : a.val ≠ 0 := fun h0 => h (Fq.ext h0)
    exact Nat.mod_eq_of_lt (Nat.sub_lt (by decide) (Nat.pos_of_ne_zero hpos))

@[simp] theorem fneg_fneg (a : Fq) : fneg (fneg a) = a := toZ_injective (by simp)

@[simp] theorem fadd_fneg_self (a : Fq) : fadd a (fneg a) = Fq.zero := toZ_injective (by simp)

/-- `a + fneg a` is the odd integer `P`, so the two have opposite parity (R85). -/
theorem lsb_fneg {a : Fq} (h : a ≠ Fq.zero) : lsb (fneg a) = 1#1 - lsb a := by
  have hodd : P % 2 = 1 := by decide
  have hlt := a.isLt
  rw [lsb_eq_ofNat, lsb_eq_ofNat, fneg_val, if_neg h]
  refine BitVec.eq_of_toNat_eq ?_
  simp only [BitVec.toNat_sub, BitVec.toNat_ofNat]
  omega

/-- Settles O50: the value is below `P` already, the two sums are those of `ZMod P`, and `P` is odd. -/
theorem negationFlipsParity : Obligations.NegationFlipsParity := fun a =>
  ⟨fneg_val a, fneg_fneg a, fadd_fneg_self a, lsb_fneg, lsb_eq_ofNat Fq.zero⟩

/-! ## The inverse -/

/-- The product with `a ^ (P - 2)` is `a ^ (P - 1)`, which is 1 (R86). -/
theorem fmul_finv (a : Fq) (h : a ≠ Fq.zero) : fmul a (finv a h) = Fq.one := by
  have hz : toZ a ≠ 0 := fun h0 => h (toZ_injective (h0.trans toZ_zero.symm))
  apply toZ_injective
  calc toZ (fmul a (finv a h)) = toZ a * toZ a ^ (P - 2) := by
        rw [toZ_fmul, finv, toZ_fpow a (by decide)]
    _ = toZ a ^ (P - 1) := (pow_succ' (toZ a) (P - 2)).symm
    _ = toZ Fq.one := by rw [pow_P_sub_one hz, toZ_one]

/-- The inverse is the one element whose product with `a` is 1. -/
theorem eq_finv_iff {a c : Fq} (h : a ≠ Fq.zero) : c = finv a h ↔ fmul a c = Fq.one := by
  constructor
  · rintro rfl
    exact fmul_finv a h
  · intro hc
    calc c = fmul c (fmul a (finv a h)) := by rw [fmul_finv, fmul_one]
      _ = fmul (fmul a c) (finv a h) := by rw [← fmul_assoc, fmul_comm c a]
      _ = finv a h := by rw [hc, fmul_comm, fmul_one]

/-- Settles O52: by uniqueness, each corner case is a product that is 1. -/
theorem inverseIsTheUniqueInverse : Obligations.InverseIsTheUniqueInverse := by
  intro a h
  refine ⟨fmul_finv a h, fun c => (eq_finv_iff h).mpr, fun h1 => ?_, fun hneg => ?_, fun h' => ?_⟩
  · exact ((eq_finv_iff h).mpr (by rw [h1, fmul_one])).symm
  · exact ((eq_finv_iff h).mpr (toZ_injective (by simp [hneg]))).symm
  · exact ((eq_finv_iff h').mpr (by rw [fmul_comm, fmul_finv])).symm

end Sys2Proof.Machine
end

section
/-! PROOFS for 41_data_movement.md.  `illegalWord_of_op` reads the illegal words of one opcode off the decoder's table, and
`exec_completes` and `exec_faults` read off its plan what a request does in `READY`; both serve every opcode.  The status word
is taken apart slice by slice. -/

namespace Sys2Proof.Machine

/-! ## What every request's statement needs -/

/-- R66: a word of the opcode `op` with a nonzero nibble or an index past the opcode's range is illegal. -/
theorem illegalWord_of_op {iw : ReqWord} {op : BitVec 8} (hop : opField iw = op)
    (h : zeroField iw ≠ 0#4 ∨ idxLimit op ≤ (idxField iw).toNat) : IllegalWord iw := by
  rw [illegalWord_iff, hop, not_and_or, Nat.not_lt]
  exact h

/-- R66: the same for an opcode that names nothing and takes index 0 only. -/
theorem illegalWord_of_noOperand {iw : ReqWord} {op : BitVec 8} (hlimit : idxLimit op = 1) (hop : opField iw = op)
    (h : zeroField iw ≠ 0#4 ∨ idxField iw ≠ 0#4) : IllegalWord iw := by
  refine illegalWord_of_op hop (h.imp_right fun hidx => hlimit ▸ Nat.pos_of_ne_zero ?_)
  exact fun hzero => hidx (BitVec.eq_of_toNat_eq hzero)

/-- A request that is no read and raises no fault in `READY` makes its planned writes and answers `ok = 1`. -/
theorem exec_completes {i : Instr} (hi : isRead i = false) {s : State} (hs : s.flt = false) {ws : List Write}
    (hp : plan i s = .ok ws) : exec i s = .next (s.commit ws).respondOk := by
  rw [exec_eq, execState_ready hi hs, hp]
  rfl

/-- The fault entry does what R160 says of it. -/
theorem State.faultEntry_faultOf (s : State) (c : FaultCode) (dests : List FieldReg) :
    FaultOf s (s.faultEntry c dests) c.code dests where
  flt      := s.faultEntry_flt dests c
  cause    := s.faultEntry_cause dests c
  response := s.faultEntry_response dests c
  invalid _ hr := s.invalidateAll_mem dests hr
  others _ hr  := s.invalidateAll_not_mem dests hr
  ib       := s.faultEntry_ib dests c
  vb       := s.faultEntry_vb dests c
  inf      := s.faultEntry_inf dests c
  cfg      := s.faultEntry_cfg dests c
  pending  := s.faultEntry_pending dests c

/-- A request that is no read and raises a fault in `READY` takes the fault entry. -/
theorem exec_faults {i : Instr} (hi : isRead i = false) {s : State} (hs : s.flt = false) {c : FaultCode}
    {dests : List FieldReg} (hp : plan i s = .error (c, dests)) :
    ∃ t, exec i s = .next t ∧ FaultOf s t c.code dests := by
  refine ⟨_, exec_eq i, ?_⟩
  rw [execState_ready hi hs, hp]
  exact s.faultEntry_faultOf c dests

/-! ## `WRB` (R100) -/

theorem block_eq_blockOfPayload {block : Block} {p : PayloadBits}
    (h : ∀ (k : Nat) (hk : k < 48), block[k] = p.extractLsb' (376 - 8 * k) 8) : block = blockOfPayload p :=
  Vector.ext fun k hk => (h k hk).trans (blockOfPayload_getElem p k hk).symm

/-- Settles O30: the word selects the arm of `WRB` with any payload, and the plan of `WRB` is the one write of the block. -/
theorem wrbWritesOneBlock : Obligations.WrbWritesOneBlock := by
  refine ⟨fun p => ?_, fun iw => illegalWord_of_op, fun b p s block hs hblock => ?_⟩
  · have hword (b : BlockIx) : decodeWord (Instr.wrb b 0#384).word p = .ok (.wrb b p) := decodeWord_word rfl p
    exact ⟨hword .ib0, hword .ib1⟩
  · rw [block_eq_blockOfPayload hblock]
    exact exec_completes (ws := [.block b (blockOfPayload p)]) rfl hs rfl

/-! ## `WRF` (R101) -/

theorem notHostWritable_iff (r : FieldReg) : notHostWritable r = true ↔ r ∈ [FieldReg.x, FieldReg.y] := by
  cases r <;> decide

/-- The plan of `WRF`: it cannot write `X` or `Y` (R66), a payload of `P` or more is out of range, any other is written. -/
theorem plan_wrf (r : FieldReg) (v : FieldBits) (s : State) : plan (.wrf r v) s =
    if r ∈ [FieldReg.x, FieldReg.y] then .error (.illegalReq, [])
    else if P ≤ v.toNat then .error (.range, [r]) else .ok [.reg r v] := by
  simp only [plan, notHostWritable_iff]

/-- Settles O31: the word selects the arm of `WRF` for every register the host may write, and the three cases are those of
its plan. -/
theorem wrfWritesOneRegister : Obligations.WrfWritesOneRegister := by
  refine ⟨fun p => ?_, fun iw => illegalWord_of_op, fun r v s hr hs hv => ?_, fun r v s hr hs hv => ?_,
    fun r v s hr hs => ?_⟩
  · have hword (r : FieldReg) (hr : r.hostWritable = true) :
        decodeWord (Instr.wrf r 0#256).word p = .ok (.wrf r (p.extractLsb' 0 256)) :=
      decodeWord_word (i := .wrf r 0#256) hr p
    exact ⟨hword .u0 rfl, hword .u1 rfl, hword .x1 rfl, hword .x2 rfl, hword .gx1 rfl, hword .gx2 rfl⟩
  · exact exec_completes (ws := [.reg r v]) rfl hs (by rw [plan_wrf, if_neg hr, if_neg hv.not_ge])
  · exact exec_faults (c := .range) rfl hs (by rw [plan_wrf, if_neg hr, if_pos hv])
  · exact exec_faults (c := .illegalReq) rfl hs (by rw [plan_wrf, if_pos hr])

/-! ## `RDF` (R102) -/

theorem exec_rdf_valid {r : FieldReg} {s : State} (h : s.vf.get r = true) :
    exec (.rdf r) s = .next { s with response := some ⟨true, .register (readout true (s.f.get r))⟩ } := by
  simp only [exec_eq, execState, h, if_true]
  rfl

/-- Reading an invalid register draws the free value it answers (U1). -/
theorem exec_rdf_invalid {r : FieldReg} {s : State} (h : s.vf.get r = false) :
    exec (.rdf r) s = .next { s with
      draws := s.draws + 1
      response := some ⟨true, .register (readout false (Config.unspecified s.draws))⟩ } := by
  simp only [exec_eq, execState, h]
  rfl

/-- Settles O32: `RDF` looks at the valid bit alone, so `READY` and `FAULTED` are alike, and it writes no field of the
block. -/
theorem rdfReadsOneRegister : Obligations.RdfReadsOneRegister := by
  refine ⟨fun p => ?_, fun iw => illegalWord_of_op, fun r s => exec_rdf_valid, fun r s h => ?_⟩
  · have hword (r : FieldReg) : decodeWord (Instr.rdf r).word p = .ok (.rdf r) := decodeWord_word rfl p
    exact ⟨hword .u0, hword .u1, hword .x1, hword .x2, hword .gx1, hword .gx2, hword .x, hword .y⟩
  · exact ⟨_, _, exec_rdf_invalid h, ⟨rfl, rfl, rfl, rfl, rfl, rfl, rfl⟩, rfl, rfl, rfl⟩

/-! ## `RDS` (R103) -/

theorem exec_rds (s : State) : exec .rds s = .next { s with response := some ⟨true, .status (statusWord s)⟩ } :=
  exec_eq .rds

/-- Bit `i` of the valid bits of the registers is that of `F[i]` (R30). -/
theorem vfBits_getLsbD (vf : FieldFile Bool) (r : FieldReg) : (vfBits vf).getLsbD r.idx.toNat = vf.get r := by
  unfold vfBits
  change BitVec.getLsbD (w := 1 + 1 + 1 + 1 + 1 + 1 + 1 + 1) _ _ = _
  cases r <;> simp only [BitVec.getLsbD_append] <;> simp [FieldReg.idx, FieldFile.get]

/-- Bit `b` of the valid bits of the blocks is that of `IB[b]` (R30). -/
theorem vbBits_getLsbD (vb : BlockFile Bool) (b : BlockIx) : (vbBits vb).getLsbD b.idx.toNat = vb.get b := by
  unfold vbBits
  change BitVec.getLsbD (w := 1 + 1) _ _ = _
  cases b <;> simp only [BitVec.getLsbD_append] <;> simp [BlockIx.idx, BlockFile.get]

/-- The slices of the status word (R30, R103).  The `change` names its width as the sum of the widths of its fields, so that
the lemmas about slices of an append apply; they drop the fields below a slice, then those above it. -/
theorem statusWord_slices (s : State) :
    (statusWord s).extractLsb' 1 3 = 0#3 ∧ (statusWord s).extractLsb' 4 4 = s.cause ∧
    (statusWord s).extractLsb' 9 7 = 0#7 ∧ (statusWord s).extractLsb' 16 8 = vfBits s.vf ∧
    (statusWord s).extractLsb' 24 2 = vbBits s.vb ∧ (statusWord s).extractLsb' 26 6 = 0#6 := by
  unfold statusWord
  refine ⟨?_, ?_, ?_, ?_, ?_, ?_⟩ <;>
    change BitVec.extractLsb' (n := 6 + 2 + 8 + 7 + 1 + 4 + 3 + 1) _ _ _ = _ <;>
    simp only [BitVec.extractLsb'_append_eq_of_le, BitVec.extractLsb'_append_eq_right, BitVec.extractLsb'_eq_self,
      Nat.reduceLeDiff, Nat.reduceSub]

/-- A bit of a slice is the bit that many positions further up. -/
theorem getLsbD_add_eq_of_slice {w start len k : Nat} {x : BitVec w} {y : BitVec len}
    (h : x.extractLsb' start len = y) (hk : k < len) : x.getLsbD (start + k) = y.getLsbD k := by
  simp [← h, hk]

/-- Bit 16 + `i` of the status word is the valid bit of `F[i]` (R30). -/
theorem statusWord_vf (s : State) (r : FieldReg) : (statusWord s).getLsbD (16 + r.idx.toNat) = s.vf.get r := by
  obtain ⟨-, -, -, hvf, -, -⟩ := statusWord_slices s
  have hidx : r.idx.toNat < 8 := by cases r <;> decide
  exact (getLsbD_add_eq_of_slice hvf hidx).trans (vfBits_getLsbD s.vf r)

/-- Bit 24 + `b` of the status word is the valid bit of `IB[b]` (R30). -/
theorem statusWord_vb (s : State) (b : BlockIx) : (statusWord s).getLsbD (24 + b.idx.toNat) = s.vb.get b := by
  obtain ⟨-, -, -, -, hvb, -⟩ := statusWord_slices s
  have hidx : b.idx.toNat < 2 := by cases b <;> decide
  exact (getLsbD_add_eq_of_slice hvb hidx).trans (vbBits_getLsbD s.vb b)

theorem statusWord_reset : statusWord State.reset = 0x00000000#32 := by decide

/-- Settles O33: `RDS` looks at no flag to be served, it writes the response alone, and its answer is the status word, whose
slices and flag bits are those of R30. -/
theorem rdsReadsTheStatusWord : Obligations.RdsReadsTheStatusWord := by
  refine ⟨decodeWord_word (i := .rds) rfl, fun iw => illegalWord_of_noOperand rfl, fun s => ?_, ?_⟩
  · obtain ⟨hlow, hcause, hmid, -, -, hhigh⟩ := statusWord_slices s
    exact ⟨statusWord s, exec_rds s, statusWord_flt s, hlow, hcause, statusWord_inf s, hmid, statusWord_vf s,
      statusWord_vb s, hhigh⟩
  · rw [exec_rds, statusWord_reset]

end Sys2Proof.Machine
end

section
/-! PROOFS for 42_byte_decoder.md.  The recombination of R110 is computed in `ZMod P`, where reducing the two parts changes
nothing; `DEC` and `H2F` follow from their plans, which look at the valid bits of the blocks alone. -/

namespace Sys2Proof.Machine

/-! ## `Decode48` (R111) -/

/-- The weight of R110 is what the last 16 bytes of a block count to. -/
theorem toZ_decodeWeight : toZ decodeWeight = 256 ^ 16 := by
  norm_num [toZ, decodeWeight]

/-- Leading zero bytes do not change the integer a byte string stands for. -/
theorem os2ip_replicate_zero_append (n : Nat) (s : List Byte) : os2ip (List.replicate n 0#8 ++ s) = os2ip s := by
  have hzero : os2ip (List.replicate n 0#8) = 0 := by
    induction n with
    | zero => rfl
    | succ n ih => rw [List.replicate_succ', os2ip_concat, ih, BitVec.toNat_ofNat, Nat.zero_mod]
  rw [os2ip_append, hzero, Nat.zero_mul, Nat.zero_add]

/-- Modulo `P`, the two parts with the weight of R110 are the block's first 32 bytes above its last 16. -/
theorem decode48_eq_reduce (s : Block) : decode48 s = reduce (os2ip s.toList) := by
  have hsplit : os2ip s.toList = os2ip (s.toList.take 32) * 256 ^ 16 + os2ip (s.toList.drop 32) := by
    simpa using os2ip_append (s.toList.take 32) (s.toList.drop 32)
  apply toZ_injective
  calc toZ (decode48 s)
      = (os2ip (s.toList.take 32) : ZMod P) * 256 ^ 16 + (os2ip (s.toList.drop 32) : ZMod P) := by
        simp only [decode48, fromBe32, os2ip_replicate_zero_append, toZ_fadd, toZ_fmul, toZ_reduce, toZ_decodeWeight]
    _ = toZ (reduce (os2ip s.toList)) := by
        rw [toZ_reduce, hsplit, Nat.cast_add, Nat.cast_mul, Nat.cast_pow, Nat.cast_ofNat]

/-- Settles O34: `Decode48` is the block's integer reduced. -/
theorem decode48IsTheIntegerModP : Obligations.Decode48IsTheIntegerModP := fun s =>
  congrArg Fq.val (decode48_eq_reduce s)

theorem bits_decode48 (s : Block) : bits (decode48 s) = BitVec.ofNat 256 (os2ip s.toList % P) :=
  congrArg bits (decode48_eq_reduce s)

/-! ## `DEC` (R112) -/

theorem plan_dec_valid {b : BlockIx} {s : State} (h : s.vb.get b = true) :
    plan (.dec b) s = .ok [.reg (decDest b) (bits (decode48 (s.ib.get b)))] := by
  simp only [plan, State.sourceBlock_valid h, needs_some_bind]

theorem plan_dec_invalid {b : BlockIx} {s : State} (h : s.vb.get b = false) :
    plan (.dec b) s = .error (.srcInvalid, [decDest b]) := by
  simp only [plan, State.sourceBlock_invalid h]
  rfl

/-- Settles O35: the word selects the arm of `DEC` for either block, and the two cases are those of its plan. -/
theorem decDecodesOneBlock : Obligations.DecDecodesOneBlock := by
  refine ⟨fun p => ?_, fun iw => illegalWord_of_op, fun b dest s hdest hs => ?_⟩
  · have hword (b : BlockIx) : decodeWord (Instr.dec b).word p = .ok (.dec b) := decodeWord_word rfl p
    exact ⟨hword .ib0, hword .ib1⟩
  · obtain rfl : dest = decDest b := by
      cases b <;> simpa [decDest] using hdest
    refine ⟨fun hb => ?_, fun hb => exec_faults (c := .srcInvalid) rfl hs (plan_dec_invalid hb)⟩
    rw [exec_completes rfl hs (plan_dec_valid hb), bits_decode48]
    rfl

/-! ## `H2F` (R113) -/

theorem plan_h2f_valid {s : State} (h0 : s.vb.get .ib0 = true) (h1 : s.vb.get .ib1 = true) :
    plan .h2f s = .ok (packedWrites (decode48 s.ib.ib0) (decode48 s.ib.ib1)) := by
  simp only [plan, State.sourceBlock_valid h0, State.sourceBlock_valid h1, needs_some_bind]
  rfl

/-- Whichever block is invalid, the fault and its destinations are the same. -/
theorem plan_h2f_invalid {s : State} (h : s.vb.get .ib0 = false ∨ s.vb.get .ib1 = false) :
    plan .h2f s = .error (.srcInvalid, h2fDests) := by
  cases h0 : s.vb.get .ib0 with
  | false =>
    simp only [plan, State.sourceBlock_invalid h0]
    rfl
  | true =>
    have h1 : s.vb.get .ib1 = false := by simpa [h0] using h
    simp only [plan, State.sourceBlock_valid h0, State.sourceBlock_invalid h1, needs_some_bind]
    rfl

/-- Settles O36: the word selects the arm of `H2F`, and the two cases are those of its plan. -/
theorem h2fPacksTheDecodedPair : Obligations.H2fPacksTheDecodedPair := by
  refine ⟨decodeWord_word (i := .h2f) rfl, fun iw => illegalWord_of_noOperand rfl, fun s v0 v1 hs h0 h1 hv0 hv1 => ?_,
    fun s hs h => exec_faults (c := .srcInvalid) rfl hs (plan_h2f_invalid h)⟩
  rw [exec_completes rfl hs (plan_h2f_valid h0 h1), packedWrites, bits_decode48, bits_decode48, ← hv0, ← hv1]
  rfl

end Sys2Proof.Machine
end

section
/-! PROOFS for 43_curve_mapper.md, the arithmetic of the eight steps of R120.  Identities between the values are polynomial
identities in `ZMod P`; which candidate is a square is read off the quadratic character; that the default curve has no point
with `y = 0` comes down to 7 not being a cube. -/

namespace Sys2Proof.Machine
open Sys2Proof.Laws

/-! ## What the steps need of the field -/

theorem toZ_eq_zero {a : Fq} : toZ a = 0 ↔ a = Fq.zero := by
  rw [← toZ_zero, toZ_inj]

theorem toZ_ne_zero {a : Fq} : toZ a ≠ 0 ↔ a ≠ Fq.zero := toZ_eq_zero.not

theorem fmul_eq_zero {a b : Fq} : fmul a b = Fq.zero ↔ a = Fq.zero ∨ b = Fq.zero := by
  have : Fact (Nat.Prime P) := ⟨P_prime⟩
  simp only [← toZ_eq_zero, toZ_fmul, mul_eq_zero]

theorem fadd_eq_zero {a b : Fq} : fadd a b = Fq.zero ↔ a = fneg b := by
  rw [← toZ_eq_zero, ← toZ_inj, toZ_fadd, toZ_fneg, add_eq_zero_iff_eq_neg]

/-- R93: a square has no roots but one and its negative. -/
theorem fsqr_eq_fsqr_iff {y y' : Fq} : fsqr y = fsqr y' ↔ y = y' ∨ y = fneg y' := by
  have : Fact (Nat.Prime P) := ⟨P_prime⟩
  simp only [← toZ_inj, toZ_fsqr, toZ_fneg, sq_eq_sq_iff_eq_or_eq_neg]

@[simp] theorem fsqr_fneg (a : Fq) : fsqr (fneg a) = fsqr a := fsqr_eq_fsqr_iff.mpr (.inr rfl)

theorem isSquare_toZ {a : Fq} : IsSquare (toZ a) ↔ IsSquareFq a := by
  rw [isSquareFq_iff, isSquare_iff_exists_sq]
  exact exists_congr fun z => eq_comm

/-- Multiplying by a non-square, and by any nonzero square, turns squares into non-squares and back: the quadratic character
is multiplicative. -/
theorem isSquareFq_iff_not_isSquareFq_mul {z k a : Fq} (hz : ¬ IsSquareFq z) (hk : k ≠ Fq.zero) (ha : a ≠ Fq.zero) :
    IsSquareFq a ↔ ¬ IsSquareFq (fmul (fmul z (fsqr k)) a) := by
  have : Fact (Nat.Prime P) := ⟨P_prime⟩
  rw [← toZ_ne_zero] at hk ha
  rw [← isSquare_toZ, ← quadraticChar_neg_one_iff_not_isSquare] at hz
  rw [← isSquare_toZ, ← isSquare_toZ, ← quadraticChar_neg_one_iff_not_isSquare, ← quadraticChar_one_iff_isSquare ha,
    toZ_fmul, toZ_fmul, toZ_fsqr, map_mul, map_mul, hz, quadraticChar_sq_one' hk, mul_one, neg_one_mul, neg_inj]

/-! ## The denominator (R123) -/

/-- R123: `d = Z·u² · (Z·u² + 1)`. -/
theorem mapDenominator_factors (c : Config) (u : Fq) :
    mapDenominator c u = fmul (fmul c.Z (fsqr u)) (fadd (fmul c.Z (fsqr u)) Fq.one) := by
  apply toZ_injective
  simp only [mapDenominator, constZZ, toZ_fadd, toZ_fmul, toZ_fsqr, toZ_one]
  ring

theorem mapDenominator_eq_zero {c : Config} {u : Fq} :
    mapDenominator c u = Fq.zero ↔ u = Fq.zero ∨ fmul c.Z (fsqr u) = fneg Fq.one := by
  simp only [mapDenominator_factors, fsqr, fmul_eq_zero, fadd_eq_zero, config_Z_ne_zero, false_or, or_self]

theorem mapTv1_zero : mapTv1 Fq.zero = Fq.zero := rfl

theorem fmul_mapTv1 {d : Fq} (h : d ≠ Fq.zero) : fmul d (mapTv1 d) = Fq.one := by
  rw [mapTv1, dif_neg (by rwa [feq_iff])]
  exact fmul_finv d h

/-- Settles O45: the denominator factors, and neither `Z` nor any other nonzero element divides 0. -/
theorem denominatorAndItsInverse : Obligations.DenominatorAndItsInverse := fun _ _ =>
  ⟨rfl, mapDenominator_eq_zero, fun h => by rw [h, mapTv1_zero], fmul_mapTv1⟩

/-! ## The two candidates (R124, R125) -/

theorem fmul_constNBA (c : Config) : fmul c.A (constNBA c) = fneg c.B := by
  rw [constNBA, fmul_comm (fneg c.B), ← fmul_assoc, fmul_finv, fmul_comm, fmul_one]

/-- Settles O46: with `w = Z·u²`, the identity follows from `(w² + w) · tv1 = 1` and `A · NBA = -B`. -/
theorem candidatesAreRelated : Obligations.CandidatesAreRelated := by
  intro c u h
  have hd : (toZ c.Z * toZ u ^ 2) * (toZ c.Z * toZ u ^ 2 + 1) * toZ (mapTv1 (mapDenominator c u)) = 1 := by
    simpa [mapDenominator_factors] using congrArg toZ (fmul_mapTv1 h)
  have hnba : toZ c.A * toZ (constNBA c) = -toZ c.B := by simpa using congrArg toZ (fmul_constNBA c)
  apply toZ_injective
  simp only [curveRhs, mapX2, mapX1, toZ_fadd, toZ_fmul, toZ_fsqr, toZ_one]
  generalize toZ c.Z * toZ u ^ 2 = w at hd ⊢
  generalize toZ (mapTv1 (mapDenominator c u)) = t at hd ⊢
  linear_combination (1 + t) * (w - w ^ 3) * hnba - toZ c.B * (1 - w) * hd

/-- R125: `gx2` is `Z` times a nonzero square times `gx1`, and `Z` is not a square. -/
theorem isSquareFq_gx1_iff {c : Config} {u : Fq} (hd : mapDenominator c u ≠ Fq.zero)
    (hg : curveRhs c (mapX1 c u) ≠ Fq.zero) :
    IsSquareFq (curveRhs c (mapX1 c u)) ↔ ¬ IsSquareFq (curveRhs c (mapX2 c u)) := by
  have hu : u ≠ Fq.zero := fun h => hd (mapDenominator_eq_zero.mpr (.inl h))
  have hk : fmul (fmul c.Z (fsqr u)) u ≠ Fq.zero := by
    simp [fsqr, fmul_eq_zero, config_Z_ne_zero, hu]
  have hrel : curveRhs c (mapX2 c u) =
      fmul (fmul c.Z (fsqr (fmul (fmul c.Z (fsqr u)) u))) (curveRhs c (mapX1 c u)) := by
    rw [candidatesAreRelated c u hd]
    apply toZ_injective
    simp only [toZ_fmul, toZ_fsqr]
    ring
  rw [hrel]
  exact isSquareFq_iff_not_isSquareFq_mul c.Z_not_square hk hg

theorem mapX1_fneg (c : Config) (u : Fq) : mapX1 c (fneg u) = mapX1 c u := by
  simp only [mapX1, mapDenominator, fsqr_fneg]

theorem mapX2_fneg (c : Config) (u : Fq) : mapX2 c (fneg u) = mapX2 c u := by
  simp only [mapX2, mapX1_fneg, fsqr_fneg]

/-! ## The default curve has no point with `y = 0` (R121) -/

/-- 7 is not a cube modulo `P`: its power to `(P - 1) / 3` is not 1. -/
theorem seven_not_cube (z : ZMod P) : z ^ 3 ≠ 7 := by
  intro h
  have hseven : toZ (reduce 7) = 7 := by simp
  have hz : z ≠ 0 := by
    rintro rfl
    rw [zero_pow three_ne_zero, ← hseven, eq_comm, toZ_eq_zero] at h
    exact absurd h (by decide)
  have hpow : toZ (fpow (reduce 7) ((P - 1) / 3)) = toZ Fq.one :=
    calc toZ (fpow (reduce 7) ((P - 1) / 3)) = (z ^ 3) ^ ((P - 1) / 3) := by
          rw [toZ_fpow _ (by decide), hseven, h]
      _ = z ^ (P - 1) := by rw [← pow_mul, show 3 * ((P - 1) / 3) = P - 1 by decide]
      _ = toZ Fq.one := by rw [pow_P_sub_one hz, toZ_one]
  exact absurd (toZ_injective hpow) (by decide +kernel)

/-- Cardano's resolvent of a depressed cubic: where `12·A³ + 81·B²` has the square root `e`, a root `r` of `x³ + A·x + B`
gives a cube root of a constant. -/
theorem resolvent_cube {F : Type} [CommRing F] {A B e r : F} (he : e ^ 2 = 12 * A ^ 3 + 81 * B ^ 2)
    (hr : r ^ 3 + A * r + B = 0) :
    9 * (6 * A * r ^ 2 + (e - 9 * B) * r + 4 * A ^ 2) ^ 3 = 4 * e ^ 3 * (e - 9 * B) := by
  obtain rfl : B = -(r ^ 3 + A * r) := by linear_combination hr
  linear_combination (-4 * e ^ 2 - 27 * e * r ^ 3 - 36 * e * r * A - 81 * r ^ 6 - 243 * r ^ 4 * A - 216 * r ^ 2 * A ^ 2
    - 48 * A ^ 3) * he

theorem default_resolvent_sqrt : (189 : ZMod P) ^ 2 = 12 * toZ defaultA ^ 3 + 81 * toZ defaultB ^ 2 := by
  have h : fsqr (reduce 189) =
      fadd (fmul (reduce 12) (fmul (fsqr defaultA) defaultA)) (fmul (reduce 81) (fsqr defaultB)) := by decide +kernel
  simpa [← pow_succ] using congrArg toZ h

/-- R121: with the default constants `g(x)` is never 0.  There `e = 189` and the constant of the resolvent is `-7·1890³`. -/
theorem curveRhs_default_ne_zero (root : RootUnit) (x : Fq) : curveRhs (defaultConfig root) x ≠ Fq.zero := by
  have h9 : (9 : ZMod P) ≠ 0 := by decide
  have h1890 : (1890 : ZMod P) ^ 3 ≠ 0 := by decide
  have : Fact (Nat.Prime P) := ⟨P_prime⟩
  intro h
  have hB : toZ defaultB = 1771 := by simp [toZ, defaultB]
  have hr : toZ x ^ 3 + toZ defaultA * toZ x + toZ defaultB = 0 := by
    simpa [curveRhs, defaultConfig, ← pow_succ] using congrArg toZ h
  have hcube := resolvent_cube default_resolvent_sqrt hr
  generalize 6 * toZ defaultA * toZ x ^ 2 + (189 - 9 * toZ defaultB) * toZ x + 4 * toZ defaultA ^ 2 = v at hcube
  rw [hB] at hcube
  refine seven_not_cube (-v / 1890) ?_
  rw [div_pow, div_eq_iff h1890]
  exact mul_left_cancel₀ h9 (by linear_combination -hcube)

/-! ## The sign fixup (R127) -/

theorem signFixup_of_eq {u y : Fq} (h : lsb u = lsb y) : signFixup u y = y := if_pos h

theorem signFixup_of_ne {u y : Fq} (h : lsb u ≠ lsb y) : signFixup u y = fneg y := if_neg h

theorem signFixup_zero (u : Fq) : signFixup u Fq.zero = Fq.zero := ite_self _

theorem eq_one_sub_iff_ne : ∀ a b : BitVec 1, a = 1#1 - b ↔ a ≠ b := by decide

/-- R85: of two opposite nonzero elements a sign bit matches exactly one. -/
theorem eq_lsb_fneg_iff {a : BitVec 1} {y : Fq} (h : y ≠ Fq.zero) : a = lsb (fneg y) ↔ a ≠ lsb y := by
  rw [lsb_fneg h, eq_one_sub_iff_ne]

theorem lsb_signFixup {u y : Fq} (h : y ≠ Fq.zero) : lsb (signFixup u y) = lsb u := by
  by_cases hp : lsb u = lsb y
  · rw [signFixup_of_eq hp, hp]
  · rw [signFixup_of_ne hp, (eq_lsb_fneg_iff h).mpr hp]

theorem signFixup_fneg (u y : Fq) : signFixup u (fneg y) = signFixup u y := by
  by_cases h : y = Fq.zero
  · rw [h]
    rfl
  by_cases hp : lsb u = lsb y
  · have hn : lsb u ≠ lsb (fneg y) := fun he => (eq_lsb_fneg_iff h).mp he hp
    rw [signFixup_of_eq hp, signFixup_of_ne hn, fneg_fneg]
  · rw [signFixup_of_ne hp, signFixup_of_eq ((eq_lsb_fneg_iff h).mpr hp)]

/-- R131 (g): negating the source negates the fixed root. -/
theorem signFixup_fneg_source {u : Fq} (h : u ≠ Fq.zero) (y : Fq) :
    signFixup (fneg u) y = fneg (signFixup u y) := by
  by_cases hp : lsb u = lsb y
  · have hn : lsb (fneg u) ≠ lsb y := fun he => (eq_lsb_fneg_iff h).mp he.symm hp.symm
    rw [signFixup_of_eq hp, signFixup_of_ne hn]
  · have hn : lsb (fneg u) = lsb y := ((eq_lsb_fneg_iff h).mpr (Ne.symm hp)).symm
    rw [signFixup_of_ne hp, signFixup_of_eq hn, fneg_fneg]

/-- The fixup does not depend on which root of one square it is given. -/
theorem signFixup_eq_of_fsqr_eq {y y' : Fq} (h : fsqr y = fsqr y') (u : Fq) : signFixup u y = signFixup u y' := by
  obtain rfl | rfl := fsqr_eq_fsqr_iff.mp h
  · rfl
  · exact signFixup_fneg u y'

@[simp] theorem fsqr_signFixup (u y : Fq) : fsqr (signFixup u y) = fsqr y := by
  by_cases hp : lsb u = lsb y
  · rw [signFixup_of_eq hp]
  · rw [signFixup_of_ne hp, fsqr_fneg]

/-- Settles O47: of `y` and its negative exactly one has the parity of `u`, unless `y` is 0. -/
theorem signFixupMatchesParity : Obligations.SignFixupMatchesParity := fun u y =>
  ⟨rfl, lsb_signFixup, signFixup_zero u, signFixup_fneg u y⟩

end Sys2Proof.Machine
end

section
/-! PROOFS for 43_curve_mapper.md, the request `MAP`.  `selectXY` is taken apart once by what the root unit answers and once
for an honest unit by which candidate is a square; `MAP` of a source that holds `u` is then the selector's answer carried
out. -/

namespace Sys2Proof.Machine

/-! ## The Root Selector (R140 to R144) -/

section
variable {root : Fq → Option Fq} {x y g x1 x2 gx1 gx2 : Fq}

theorem verifyRoot_of_eq (h : fsqr y = g) : verifyRoot x y g = .ok (x, y) := if_pos ((feq_iff _ _).mpr h)

theorem verifyRoot_of_ne (h : fsqr y ≠ g) : verifyRoot x y g = .error .integrity := if_neg (mt (feq_iff _ _).mp h)

theorem verifyRoot_eq_ok {p : Fq × Fq} (h : verifyRoot x y g = .ok p) : p = (x, y) ∧ fsqr y = g := by
  by_cases hy : fsqr y = g
  · rw [verifyRoot_of_eq hy] at h
    exact ⟨(Except.ok.inj h).symm, hy⟩
  · rw [verifyRoot_of_ne hy] at h
    cases h

theorem selectXY_of_first {a : Fq} (h1 : root gx1 = some a) (h2 : root gx2 = none) :
    selectXY root x1 x2 gx1 gx2 = verifyRoot x1 a gx1 := by
  simp only [selectXY, h1, h2]

theorem selectXY_of_second {b : Fq} (h1 : root gx1 = none) (h2 : root gx2 = some b) :
    selectXY root x1 x2 gx1 gx2 = verifyRoot x2 b gx2 := by
  simp only [selectXY, h1, h2]

theorem selectXY_both_or_neither (h : (root gx1).isSome = (root gx2).isSome) :
    selectXY root x1 x2 gx1 gx2 = .error .rootXor := by
  cases h1 : root gx1 with
  | some a =>
    obtain ⟨b, h2⟩ : ∃ b, root gx2 = some b := by simpa [h1, Option.isSome_iff_exists] using h.symm
    simp only [selectXY, h1, h2]
  | none =>
    have h2 : root gx2 = none := by simpa [h1] using h
    simp only [selectXY, h1, h2]

/-- R126: what the selector returns is one of the candidates with a root of its right-hand side. -/
theorem selectXY_eq_ok {p : Fq × Fq} (h : selectXY root x1 x2 gx1 gx2 = .ok p) :
    (p.1 = x1 ∧ fsqr p.2 = gx1) ∨ (p.1 = x2 ∧ fsqr p.2 = gx2) := by
  by_cases hsome : (root gx1).isSome = (root gx2).isSome
  · rw [selectXY_both_or_neither hsome] at h
    cases h
  cases h1 : root gx1 with
  | some a =>
    have h2 : root gx2 = none := by simpa [h1] using hsome
    rw [selectXY_of_first h1 h2] at h
    obtain ⟨rfl, ha⟩ := verifyRoot_eq_ok h
    exact .inl ⟨rfl, ha⟩
  | none =>
    obtain ⟨b, h2⟩ : ∃ b, root gx2 = some b := by simpa [h1, Option.ne_none_iff_exists'] using hsome
    rw [selectXY_of_second h1 h2] at h
    obtain ⟨rfl, hb⟩ := verifyRoot_eq_ok h
    exact .inr ⟨rfl, hb⟩

/-! ## An honest root unit (R137) -/

theorem RootHonest.isSome_iff (hroot : RootHonest root) (g : Fq) : (root g).isSome = true ↔ IsSquareFq g := by
  refine ⟨fun h => by_contra fun hg => ?_, fun hg => ?_⟩
  · simp [(hroot g).2 hg] at h
  · obtain ⟨r, hr, -⟩ := (hroot g).1 hg
    simp [hr]

theorem RootHonest.selectXY_first (hroot : RootHonest root) (h1 : IsSquareFq gx1) (h2 : ¬ IsSquareFq gx2) :
    ∃ y, fsqr y = gx1 ∧ selectXY root x1 x2 gx1 gx2 = .ok (x1, y) := by
  obtain ⟨y, hy, hsqr⟩ := (hroot gx1).1 h1
  exact ⟨y, hsqr, (selectXY_of_first hy ((hroot gx2).2 h2)).trans (verifyRoot_of_eq hsqr)⟩

theorem RootHonest.selectXY_second (hroot : RootHonest root) (h1 : ¬ IsSquareFq gx1) (h2 : IsSquareFq gx2) :
    ∃ y, fsqr y = gx2 ∧ selectXY root x1 x2 gx1 gx2 = .ok (x2, y) := by
  obtain ⟨y, hy, hsqr⟩ := (hroot gx2).1 h2
  exact ⟨y, hsqr, (selectXY_of_second ((hroot gx1).2 h1) hy).trans (verifyRoot_of_eq hsqr)⟩

theorem RootHonest.selectXY_error (hroot : RootHonest root) (h : IsSquareFq gx1 ↔ IsSquareFq gx2) :
    selectXY root x1 x2 gx1 gx2 = .error .rootXor :=
  selectXY_both_or_neither (Bool.eq_iff_iff.mpr (by rw [hroot.isSome_iff, hroot.isSome_iff, h]))

/-- Two honest units have the same outcome up to the root of the selected square. -/
theorem RootHonest.selectXY_agree {root' : Fq → Option Fq} (hroot : RootHonest root) (hroot' : RootHonest root')
    (x1 x2 gx1 gx2 : Fq) :
    (∃ c, selectXY root x1 x2 gx1 gx2 = .error c ∧ selectXY root' x1 x2 gx1 gx2 = .error c) ∨
    (∃ x y y', fsqr y = fsqr y' ∧ selectXY root x1 x2 gx1 gx2 = .ok (x, y) ∧
      selectXY root' x1 x2 gx1 gx2 = .ok (x, y')) := by
  by_cases h : IsSquareFq gx1 ↔ IsSquareFq gx2
  · exact .inl ⟨_, hroot.selectXY_error h, hroot'.selectXY_error h⟩
  right
  by_cases h1 : IsSquareFq gx1
  · have h2 : ¬ IsSquareFq gx2 := fun h2 => h (iff_of_true h1 h2)
    obtain ⟨y, hy, hsel⟩ := hroot.selectXY_first (x1 := x1) (x2 := x2) h1 h2
    obtain ⟨y', hy', hsel'⟩ := hroot'.selectXY_first (x1 := x1) (x2 := x2) h1 h2
    exact ⟨x1, y, y', hy.trans hy'.symm, hsel, hsel'⟩
  · have h2 : IsSquareFq gx2 := by_contra fun h2 => h (iff_of_false h1 h2)
    obtain ⟨y, hy, hsel⟩ := hroot.selectXY_second (x1 := x1) (x2 := x2) h1 h2
    obtain ⟨y', hy', hsel'⟩ := hroot'.selectXY_second (x1 := x1) (x2 := x2) h1 h2
    exact ⟨x2, y, y', hy.trans hy'.symm, hsel, hsel'⟩

end

/-! ## The values of `MAP` (R120) -/

/-- The values of R120, as the model computes them. -/
def mapValues (c : Config) (u : Fq) : MapValues where
  u2   := fsqr u
  u4   := fsqr (fsqr u)
  d    := mapDenominator c u
  tv1  := mapTv1 (mapDenominator c u)
  ainv := finv c.A c.A_ne_zero
  x1   := mapX1 c u
  gx1  := curveRhs c (mapX1 c u)
  x2   := mapX2 c u
  gx2  := curveRhs c (mapX2 c u)

theorem mapValues_of (c : Config) (u : Fq) : (mapValues c u).Of c u where
  u2   := rfl
  u4   := rfl
  d    := rfl
  zero h := (congrArg mapTv1 h).trans mapTv1_zero
  inv    := fmul_mapTv1
  ainv := fmul_finv c.A c.A_ne_zero
  x1   := rfl
  gx1  := rfl
  x2   := rfl
  gx2  := rfl

theorem eq_mapTv1 {d tv1 : Fq} (hzero : d = Fq.zero → tv1 = Fq.zero) (hinv : d ≠ Fq.zero → fmul d tv1 = Fq.one) :
    tv1 = mapTv1 d := by
  by_cases hd : d = Fq.zero
  · rw [hzero hd, hd, mapTv1_zero]
  · rw [(eq_finv_iff hd).mpr (hinv hd), (eq_finv_iff hd).mpr (fmul_mapTv1 hd)]

/-- The equations of R120 have one solution. -/
theorem MapValues.Of.eq {m : MapValues} {c : Config} {u : Fq} (h : m.Of c u) : m = mapValues c u := by
  obtain ⟨u2, u4, d, tv1, ainv, x1, gx1, x2, gx2⟩ := m
  obtain ⟨hu2, hu4, hd, hzero, hinv, hmulA, hx1, hgx1, hx2, hgx2⟩ := h
  have htv1 := eq_mapTv1 hzero hinv
  have hainv := (eq_finv_iff c.A_ne_zero).mpr hmulA
  dsimp only at hu2 hu4 hd htv1 hainv hx1 hgx1 hx2 hgx2
  subst hu2 hu4 hd htv1 hainv hx1 hgx1 hx2 hgx2
  rfl

/-! ## `MAP` in `READY` (R120) -/

/-- Writing the six registers from `X1` to `Y` and clearing `INF`. -/
theorem State.commit_mapDests (s : State) (x1 x2 gx1 gx2 x y : FieldBits) :
    (s.commit [.reg .x1 x1, .reg .x2 x2, .reg .gx1 gx1, .reg .gx2 gx2, .reg .x x, .reg .y y, .infZero]).respondOk =
      { s with
        f := ⟨s.f.u0, s.f.u1, x1, x2, gx1, gx2, x, y⟩
        vf := ⟨s.vf.u0, s.vf.u1, true, true, true, true, true, true⟩
        inf := false
        response := okNoData } := (rfl)

theorem State.commit_mappedWrites (s : State) (c : Config) (u x y : Fq) :
    (s.commit (mappedWrites c u x y)).respondOk = mapped s (mapValues c u) u x y :=
  s.commit_mapDests _ _ _ _ _ _

theorem mapped_holds_x (s : State) (m : MapValues) (u x y : Fq) : (mapped s m u x y).Holds .x x := ⟨rfl, rfl⟩

theorem mapped_holds_y (s : State) (m : MapValues) (u x y : Fq) : (mapped s m u x y).Holds .y (signFixup u y) :=
  ⟨rfl, rfl⟩

theorem State.Holds.source {s : State} {r : FieldReg} {v : Fq} (h : s.Holds r v) : s.source r = some v := by
  obtain ⟨hvalid, hbits⟩ := h
  have hval : (BitVec.ofNat 256 v.val).toNat = v.val := bits_toNat v
  rw [State.source_valid hvalid, hbits, hval, reduce_val]

theorem State.writeReg_holds (s : State) (r : FieldReg) (v : Fq) : (s.writeReg r v).Holds r v :=
  ⟨FieldFile.get_set_self s.vf r true, FieldFile.get_set_self s.f r (bits v)⟩

theorem execState_faults {i : Instr} (hi : isRead i = false) {s : State} (hs : s.flt = false) {c : FaultCode}
    {dests : List FieldReg} (hp : plan i s = .error (c, dests)) : FaultOf s (execState i s) c.code dests := by
  obtain ⟨t, ht, hfault⟩ := exec_faults hi hs hp
  exact execState_of_next ht ▸ hfault

section
variable {src : MapSrc} {s t : State} {u x y : Fq} {c : FaultCode}

theorem plan_map_none (hu : s.source (mapSource src) = none) : plan (.map src) s = .error (.srcInvalid, mapDests) := by
  simp only [plan, hu]
  rfl

theorem plan_map_ok (hu : s.source (mapSource src) = some u) (h : mapSelect s.cfg u = .ok (x, y)) :
    plan (.map src) s = .ok (mappedWrites s.cfg u x y) := by
  simp only [plan, hu, needs_some_bind, h]
  rfl

theorem plan_map_error (hu : s.source (mapSource src) = some u) (h : mapSelect s.cfg u = .error c) :
    plan (.map src) s = .error (c, mapDests) := by
  simp only [plan, hu, needs_some_bind, h]
  rfl

variable (hs : s.flt = false)
include hs

/-- `MAP` of an invalid source. -/
theorem execState_map_invalid (h : s.vf.get (mapSource src) = false) :
    FaultOf s (execState (.map src) s) 3#4 mapDests :=
  execState_faults (c := .srcInvalid) rfl hs (plan_map_none (State.source_invalid h))

variable (hu : s.Holds (mapSource src) u)
include hu

/-- `MAP` where the selector returned a candidate and its root. -/
theorem execState_map_ok (h : mapSelect s.cfg u = .ok (x, y)) :
    execState (.map src) s = mapped s (mapValues s.cfg u) u x y := by
  rw [execState_ready rfl hs, plan_map_ok hu.source h]
  exact s.commit_mappedWrites s.cfg u x y

/-- `MAP` where the selector raised a fault. -/
theorem execState_map_error (h : mapSelect s.cfg u = .error c) :
    FaultOf s (execState (.map src) s) c.code mapDests :=
  execState_faults rfl hs (plan_map_error hu.source h)

/-- A completing `MAP` has the selector's answer. -/
theorem map_completed (h : exec (.map src) s = .next t) (ht : t.flt = false) :
    ∃ x y, mapSelect s.cfg u = .ok (x, y) ∧ t = mapped s (mapValues s.cfg u) u x y := by
  rw [execState_of_next h] at ht ⊢
  cases hsel : mapSelect s.cfg u with
  | error c => simp [(execState_map_error hs hu hsel).flt] at ht
  | ok p => exact ⟨p.1, p.2, rfl, execState_map_ok hs hu hsel⟩

/-- With an honest unit `MAP` completes where exactly one candidate is a square. -/
theorem map_completes_of_one_square (hroot : RootHonest (rootFn s.cfg.root))
    (h : IsSquareFq (curveRhs s.cfg (mapX1 s.cfg u)) ↔ ¬ IsSquareFq (curveRhs s.cfg (mapX2 s.cfg u))) :
    (execState (.map src) s).flt = false ∧ (execState (.map src) s).response = okNoData := by
  obtain ⟨p, hsel⟩ : ∃ p, mapSelect s.cfg u = .ok p := by
    by_cases h1 : IsSquareFq (curveRhs s.cfg (mapX1 s.cfg u))
    · obtain ⟨y, -, hsel⟩ := hroot.selectXY_first h1 (h.mp h1)
      exact ⟨_, hsel⟩
    · obtain ⟨y, -, hsel⟩ := hroot.selectXY_second h1 (not_not.mp (mt h.mpr h1))
      exact ⟨_, hsel⟩
  rw [execState_map_ok hs hu hsel]
  exact ⟨hs, rfl⟩

end

/-! ## The rule of `MAP` (R120) -/

theorem eq_mapSource {src : MapSrc} {reg : FieldReg}
    (h : (src, reg) ∈ [(MapSrc.fromU0, FieldReg.u0), (MapSrc.fromU1, FieldReg.u1)]) : reg = mapSource src := by
  cases src <;> simpa [mapSource] using h

/-- Settles O39: the values are those the model computes, and each case of the root queries is one outcome of the
selector. -/
theorem mapFollowsItsRule : Obligations.MapFollowsItsRule := by
  refine ⟨fun p => ?_, fun iw => illegalWord_of_op, fun c u => ⟨_, mapValues_of c u⟩,
    fun s src reg u m root hreg hs hroot hu hm => ?_, fun s src reg hreg hs hv => ?_⟩
  · have hword (src : MapSrc) : decodeWord (Instr.map src).word p = .ok (.map src) := decodeWord_word rfl p
    exact ⟨hword .fromU0, hword .fromU1⟩
  · obtain rfl := eq_mapSource hreg
    obtain rfl := hm.eq
    subst hroot
    have hok {x y : Fq} (h : mapSelect s.cfg u = .ok (x, y)) :
        exec (.map src) s = .next (mapped s (mapValues s.cfg u) u x y) := by
      rw [exec_eq, execState_map_ok hs hu h]
    have hfault {c : FaultCode} (h : mapSelect s.cfg u = .error c) :
        ∃ t, exec (.map src) s = .next t ∧ FaultOf s t c.code mapDests :=
      ⟨_, exec_eq _, execState_map_error hs hu h⟩
    exact ⟨fun a h1 h2 ha => hok ((selectXY_of_first h1 h2).trans (verifyRoot_of_eq ha)),
      fun b h1 h2 hb => hok ((selectXY_of_second h1 h2).trans (verifyRoot_of_eq hb)),
      fun a h1 h2 ha => hfault ((selectXY_of_first h1 h2).trans (verifyRoot_of_ne ha)),
      fun b h1 h2 hb => hfault ((selectXY_of_second h1 h2).trans (verifyRoot_of_ne hb)),
      fun h => hfault (selectXY_both_or_neither h)⟩
  · obtain rfl := eq_mapSource hreg
    exact ⟨_, exec_eq _, execState_map_invalid hs hv⟩

/-! ## What a completing `MAP` leaves (R130, R131) -/

/-- Settles O40: the selected root squares to the right-hand side of the selected candidate, and the fixup keeps its
square. -/
theorem mapReturnsAPointOfTheCurve : Obligations.MapReturnsAPointOfTheCurve := by
  intro src s t u hu hs h ht
  obtain ⟨x, y, hsel, rfl⟩ := map_completed hs hu h ht
  have hfix (hne : signFixup u y ≠ Fq.zero) : lsb (signFixup u y) = lsb u :=
    lsb_signFixup fun hy => hne (by rw [hy, signFixup_zero])
  obtain ⟨rfl, hsqr⟩ | ⟨rfl, hsqr⟩ := selectXY_eq_ok hsel
  · exact ⟨_, _, mapped_holds_x .., mapped_holds_y .., (fsqr_signFixup u y).trans hsqr, .inl ⟨rfl, rfl⟩, rfl, hfix⟩
  · exact ⟨_, _, mapped_holds_x .., mapped_holds_y .., (fsqr_signFixup u y).trans hsqr, .inr ⟨rfl, rfl⟩, rfl, hfix⟩

theorem mapSelect_fneg (c : Config) (u : Fq) : mapSelect c (fneg u) = mapSelect c u := by
  simp only [mapSelect, mapX1_fneg, mapX2_fneg]

/-- Settles O43: the source enters the selector by its square alone, so only the fixup sees the negation. -/
theorem mapOfTheNegatedSource : Obligations.MapOfTheNegatedSource := by
  intro src s t t' u hu0 hs hu h ht h'
  obtain ⟨x, y, hsel, rfl⟩ := map_completed hs hu h ht
  have hu' := s.writeReg_holds (mapSource src) (fneg u)
  have hsel' : mapSelect (s.writeReg (mapSource src) (fneg u)).cfg (fneg u) = .ok (x, y) :=
    (mapSelect_fneg s.cfg u).trans hsel
  rw [execState_of_next h', execState_map_ok (s := s.writeReg _ _) hs hu' hsel']
  refine ⟨_, _, mapped_holds_x .., mapped_holds_y .., mapped_holds_x .., ?_⟩
  rw [← signFixup_fneg_source hu0]
  exact mapped_holds_y ..

/-! ## Which honest unit is used does not matter (R131 (f)) -/

/-- The same state, built with another root unit. -/
def State.withRoot (s : State) (unit : RootUnit) : State := { s with cfg := { s.cfg with root := unit } }

/-- A plan is carried out without looking at the root unit. -/
theorem State.carryOut_withRoot (s : State) (unit : RootUnit) (outcome : Except Raised (List Write)) :
    (s.withRoot unit).carryOut outcome = (s.carryOut outcome).withRoot unit := by
  cases outcome with
  | ok ws =>
    have hcommit : (s.withRoot unit).commit ws = (s.commit ws).withRoot unit := by
      induction ws generalizing s with
      | nil => rfl
      | cons w ws ih =>
        have hwrite : (s.withRoot unit).write w = (s.write w).withRoot unit := by cases w <;> rfl
        rw [State.commit_cons, State.commit_cons, hwrite, ih]
    exact congrArg State.respondOk hcommit
  | error e =>
    have hinvalid (dests : List FieldReg) :
        (s.withRoot unit).invalidateAll dests = (s.invalidateAll dests).withRoot unit := by
      induction dests generalizing s with
      | nil => rfl
      | cons r rs ih => exact ih (s.invalidate r)
    simp only [State.carryOut, State.faultEntry, hinvalid]
    rfl

/-- The two roots of the selected square give the same writes, by the fixup. -/
theorem plan_map_withRoot (src : MapSrc) (s : State) (unit : RootUnit) (hroot : RootHonest (rootFn s.cfg.root))
    (hroot' : RootHonest (rootFn unit)) :
    plan (.map src) (s.withRoot unit) = plan (.map src) s := by
  cases hu : s.source (mapSource src) with
  | none =>
    have hu' : (s.withRoot unit).source (mapSource src) = none := hu
    rw [plan_map_none hu, plan_map_none hu']
  | some u =>
    have hu' : (s.withRoot unit).source (mapSource src) = some u := hu
    obtain ⟨c, hsel, hsel'⟩ | ⟨x, y, y', hy, hsel, hsel'⟩ := hroot.selectXY_agree hroot' (mapX1 s.cfg u)
      (mapX2 s.cfg u) (curveRhs s.cfg (mapX1 s.cfg u)) (curveRhs s.cfg (mapX2 s.cfg u))
    · rw [plan_map_error hu hsel, plan_map_error hu' hsel']
    · rw [plan_map_ok hu hsel, plan_map_ok hu' hsel', mappedWrites, mappedWrites, signFixup_eq_of_fsqr_eq hy]
      rfl

/-- Settles O42: the two plans are the same, and neither `READY` nor `FAULTED` looks at the configuration otherwise. -/
theorem mapIgnoresWhichHonestRoot : Obligations.MapIgnoresWhichHonestRoot := by
  intro src s t t' unit hroot hroot' h h'
  rw [← (exec_ran h).cfg]
  change t' = t.withRoot unit
  change exec _ (s.withRoot unit) = _ at h'
  rw [execState_of_next h, execState_of_next h']
  cases hs : s.flt with
  | true =>
    have hs' : (s.withRoot unit).flt = true := hs
    rw [execState_faulted rfl hs, execState_faulted rfl hs']
    rfl
  | false =>
    have hs' : (s.withRoot unit).flt = false := hs
    rw [execState_ready rfl hs, execState_ready rfl hs', plan_map_withRoot src s unit hroot hroot',
      State.carryOut_withRoot]

/-! ## Where `MAP` completes (R125, R129) -/

/-- Settles O55: the candidates differ in being squares, so one query of an honest unit is answered and verifies. -/
theorem exactlyOneCandidateIsASquare : Obligations.ExactlyOneCandidateIsASquare :=
  ⟨fun _ _ => isSquareFq_gx1_iff, fun _ _ _ hs hu hroot hd hg =>
    ⟨_, exec_eq _, map_completes_of_one_square hs hu hroot (isSquareFq_gx1_iff hd hg)⟩⟩

/-- The reference unit decides squareness by evaluation (R138). -/
theorem isSquareFq_iff_rootRef (g : Fq) : IsSquareFq g ↔ (rootRef g).isSome = true :=
  (rootHonest_reference.isSome_iff g).symm

theorem mapX1_of_denominator_zero {c : Config} {u : Fq} (h : mapDenominator c u = Fq.zero) :
    mapX1 c u = constNBA c := by
  rw [mapX1, h, mapTv1_zero, fadd_zero, fmul_one]

theorem mapX2_of_eq_neg_one {c : Config} {u : Fq} (h : fmul c.Z (fsqr u) = fneg Fq.one) :
    mapX2 c u = fneg (constNBA c) := by
  rw [mapX2, h, mapX1_of_denominator_zero (mapDenominator_eq_zero.mpr (.inr h))]
  exact toZ_injective (by simp)

/-- The right-hand sides of R129's table do not depend on the root unit, so one evaluation serves them all. -/
theorem curveRhs_default (root : RootUnit) (x : Fq) :
    curveRhs (defaultConfig root) x = curveRhs (defaultConfig .reference) x := rfl

/-- R129, `Z·u² = -1`: a square and a non-square. -/
theorem default_squares_at_nba (root : RootUnit) :
    IsSquareFq (curveRhs (defaultConfig root) (constNBA (defaultConfig root))) ∧
      ¬ IsSquareFq (curveRhs (defaultConfig root) (fneg (constNBA (defaultConfig root)))) := by
  simp only [curveRhs_default root, isSquareFq_iff_rootRef]
  change (rootRef (curveRhs _ (constNBA (defaultConfig .reference)))).isSome = true ∧
    ¬ (rootRef (curveRhs _ (fneg (constNBA (defaultConfig .reference))))).isSome = true
  decide +kernel

/-- R129, `u = 0`: two squares. -/
theorem default_squares_at_zero (root : RootUnit) :
    IsSquareFq (curveRhs (defaultConfig root) (mapX1 (defaultConfig root) Fq.zero)) ∧
      IsSquareFq (curveRhs (defaultConfig root) (mapX2 (defaultConfig root) Fq.zero)) := by
  simp only [curveRhs_default root, isSquareFq_iff_rootRef]
  change (rootRef (curveRhs _ (mapX1 (defaultConfig .reference) Fq.zero))).isSome = true ∧
    (rootRef (curveRhs _ (mapX2 (defaultConfig .reference) Fq.zero))).isSome = true
  decide +kernel

/-- R129, R131 (e): off 0 exactly one candidate of the default constants is a square. -/
theorem default_one_square (root : RootUnit) {u : Fq} (hu : u ≠ Fq.zero) :
    IsSquareFq (curveRhs (defaultConfig root) (mapX1 (defaultConfig root) u)) ↔
      ¬ IsSquareFq (curveRhs (defaultConfig root) (mapX2 (defaultConfig root) u)) := by
  by_cases hd : mapDenominator (defaultConfig root) u = Fq.zero
  · have hw := (mapDenominator_eq_zero.mp hd).resolve_left hu
    rw [mapX1_of_denominator_zero hd, mapX2_of_eq_neg_one hw]
    obtain ⟨hfirst, hsecond⟩ := default_squares_at_nba root
    exact iff_of_true hfirst hsecond
  · exact isSquareFq_gx1_iff hd (curveRhs_default_ne_zero root _)

/-- Settles O41: off 0 exactly one candidate is a square, at 0 both are. -/
theorem mapCompletesExactlyOffZero : Obligations.MapCompletesExactlyOffZero := by
  intro src s hs hcfg hroot
  refine ⟨_, exec_eq _, fun u hu => ⟨fun hne => ?_, fun h0 => ?_⟩, fun hv => ?_⟩
  · have hone := default_one_square s.cfg.root hne
    rw [← hcfg] at hone
    exact map_completes_of_one_square hs hu hroot hone
  · have hboth := default_squares_at_zero s.cfg.root
    rw [← hcfg, ← h0] at hboth
    have hfault := execState_map_error hs hu (hroot.selectXY_error (iff_of_true hboth.1 hboth.2))
    exact ⟨hfault.flt, hfault.cause, hfault.response⟩
  · have hfault := execState_map_invalid hs hv
    exact ⟨hfault.flt, hfault.cause, hfault.response⟩

end Sys2Proof.Machine
end

section
/-! PROOFS for 44_root_selector.md.  `SEL` in `READY` carries out the answer of the selector, which the lemmas on `selectXY`
give for each case of the two root queries and, for an honest unit, for each case of the two squares. -/

namespace Sys2Proof.Machine

/-! ## The selector (R144) -/

/-- Settles O37: one answer is verified and decides, two answers or none are `ROOT_XOR`. -/
theorem selectorTable : Obligations.SelectorTable := fun _ _ _ _ _ =>
  ⟨fun _ h1 h2 ha => (selectXY_of_first h1 h2).trans (verifyRoot_of_eq ha),
    fun _ h1 h2 ha => (selectXY_of_first h1 h2).trans (verifyRoot_of_ne ha),
    fun _ h1 h2 hb => (selectXY_of_second h1 h2).trans (verifyRoot_of_eq hb),
    fun _ h1 h2 hb => (selectXY_of_second h1 h2).trans (verifyRoot_of_ne hb),
    fun _ _ h1 h2 => selectXY_both_or_neither (by rw [h1, h2]; rfl),
    fun h1 h2 => selectXY_both_or_neither (by rw [h1, h2])⟩

/-! ## `SEL` in `READY` (R135) -/

theorem State.commit_selDests (s : State) (x y : Fq) :
    (s.commit [.reg .x (bits x), .reg .y (bits y)]).respondOk = selected s x y := (rfl)

/-- Whichever source is invalid, the fault and its destinations are the same. -/
theorem plan_sel_invalid {s : State} (h : s.vf.get .x1 = false ∨ s.vf.get .x2 = false ∨ s.vf.get .gx1 = false ∨
    s.vf.get .gx2 = false) : plan .sel s = .error (.srcInvalid, selDests) := by
  simp only [plan]
  rcases h1 : s.source .x1 with _ | x1
  · rfl
  rcases h2 : s.source .x2 with _ | x2
  · rfl
  rcases h3 : s.source .gx1 with _ | gx1
  · rfl
  rcases h4 : s.source .gx2 with _ | gx2
  · rfl
  simp [State.source_isSome h1, State.source_isSome h2, State.source_isSome h3, State.source_isSome h4] at h

section
variable {s : State} {x1 x2 gx1 gx2 : Fq}

/-- The plan of `SEL` with four valid sources is the selector's answer. -/
theorem plan_sel_valid (h1 : s.Holds .x1 x1) (h2 : s.Holds .x2 x2) (h3 : s.Holds .gx1 gx1) (h4 : s.Holds .gx2 gx2) :
    plan .sel s = ((selectXY (rootFn s.cfg.root) x1 x2 gx1 gx2).mapError (·, selDests)).map fun p =>
      [.reg .x (bits p.1), .reg .y (bits p.2)] := by
  simp only [plan, h1.source, h2.source, h3.source, h4.source, needs_some_bind]
  cases selectXY (rootFn s.cfg.root) x1 x2 gx1 gx2 <;> rfl

variable (hs : s.flt = false) (h1 : s.Holds .x1 x1) (h2 : s.Holds .x2 x2) (h3 : s.Holds .gx1 gx1)
  (h4 : s.Holds .gx2 gx2)
include hs h1 h2 h3 h4

/-- `SEL` where the selector returned a candidate and its root. -/
theorem exec_sel_ok {x y : Fq} (h : selectXY (rootFn s.cfg.root) x1 x2 gx1 gx2 = .ok (x, y)) :
    exec .sel s = .next (selected s x y) := by
  have hplan := plan_sel_valid h1 h2 h3 h4
  rw [h] at hplan
  rw [exec_completes rfl hs hplan, State.commit_selDests]

/-- `SEL` where the selector raised a fault. -/
theorem exec_sel_error {c : FaultCode} (h : selectXY (rootFn s.cfg.root) x1 x2 gx1 gx2 = .error c) :
    ∃ t, exec .sel s = .next t ∧ FaultOf s t c.code selDests := by
  have hplan := plan_sel_valid h1 h2 h3 h4
  rw [h] at hplan
  exact exec_faults rfl hs hplan

end

/-! ## The rule of `SEL` (R135, R137) -/

/-- Settles O38: the word selects the arm of `SEL`, and each row of the selector's table is one outcome of the request. -/
theorem selFollowsItsRule : Obligations.SelFollowsItsRule := by
  refine ⟨decodeWord_word (i := .sel) rfl, fun iw => illegalWord_of_noOperand rfl,
    fun s x1 x2 gx1 gx2 root hs hroot h1 h2 h3 h4 => ?_,
    fun s hs h => exec_faults (c := .srcInvalid) rfl hs (plan_sel_invalid h)⟩
  subst hroot
  obtain ⟨hfirst, hfirstBad, hsecond, hsecondBad, -, -⟩ := selectorTable (rootFn s.cfg.root) x1 x2 gx1 gx2
  have hok {x y : Fq} := exec_sel_ok hs h1 h2 h3 h4 (x := x) (y := y)
  have hfault {c : FaultCode} := exec_sel_error hs h1 h2 h3 h4 (c := c)
  exact ⟨fun a ha hb hsqr => hok (hfirst a ha hb hsqr), fun b ha hb hsqr => hok (hsecond b ha hb hsqr),
    fun a ha hb hne => hfault (hfirstBad a ha hb hne), fun b ha hb hne => hfault (hsecondBad b ha hb hne),
    fun h => hfault (selectXY_both_or_neither h)⟩

/-- Settles O48: an honest unit answers exactly the squares, so the one square candidate is selected with a root of it. -/
theorem honestRootDecidesSel : Obligations.HonestRootDecidesSel := by
  intro s x1 x2 gx1 gx2 hs hroot h1 h2 h3 h4
  refine ⟨fun hsq hnot => ?_, fun hnot hsq => ?_, fun h => exec_sel_error hs h1 h2 h3 h4 (hroot.selectXY_error h)⟩
  · obtain ⟨y, hsqr, hsel⟩ := hroot.selectXY_first hsq hnot
    exact ⟨y, hsqr, exec_sel_ok hs h1 h2 h3 h4 hsel⟩
  · obtain ⟨y, hsqr, hsel⟩ := hroot.selectXY_second hnot hsq
    exact ⟨y, hsqr, exec_sel_ok hs h1 h2 h3 h4 hsel⟩

end Sys2Proof.Machine
end

section
/-! PROOFS for 60_exceptions.md.  `plan_raises` says of every request at once which faults it can raise and with which
destinations; `Ran.faults` and `illegalRequest_faultOf` say that a step enters `FAULTED` by the fault entry only. -/

namespace Sys2Proof.Machine

/-! ## Which faults a request raises (R157, R161) -/

theorem bind_eq_error {α β : Type} {x : Except Raised α} {f : α → Except Raised β} {e : Raised} :
    (x >>= f) = .error e ↔ x = .error e ∨ ∃ a, x = .ok a ∧ f a = .error e := by
  cases x <;> simp [bind, Except.bind]

@[simp] theorem needs_eq_error {α : Type} {dests : List FieldReg} {src : Option α} {e : Raised} :
    needs dests src = .error e ↔ src = none ∧ e = (.srcInvalid, dests) := by
  cases src <;> simp [needs, eq_comm]

@[simp] theorem mapError_eq_error {α : Type} {x : Except FaultCode α} {dests : List FieldReg} {e : Raised} :
    x.mapError (·, dests) = .error e ↔ ∃ c, x = .error c ∧ e = (c, dests) := by
  cases x <;> simp [Except.mapError, eq_comm]

/-- R143: verification raises `INTEGRITY` only. -/
theorem verifyRoot_eq_error {x y g : Fq} {c : FaultCode} (h : verifyRoot x y g = .error c) : c = .integrity := by
  by_cases hy : fsqr y = g
  · rw [verifyRoot_of_eq hy] at h
    cases h
  · rw [verifyRoot_of_ne hy] at h
    exact (Except.error.inj h).symm

/-- R141, R143: the selector raises `ROOT_XOR`, or `INTEGRITY` by the verification of the one answer. -/
theorem selectXY_eq_error {root : Fq → Option Fq} {x1 x2 gx1 gx2 : Fq} {c : FaultCode}
    (h : selectXY root x1 x2 gx1 gx2 = .error c) : c = .rootXor ∨ c = .integrity := by
  rcases h1 : root gx1 with _ | a <;> rcases h2 : root gx2 with _ | b
  · rw [selectXY_both_or_neither (by rw [h1, h2])] at h
    exact .inl (Except.error.inj h).symm
  · rw [selectXY_of_second h1 h2] at h
    exact .inr (verifyRoot_eq_error h)
  · rw [selectXY_of_first h1 h2] at h
    exact .inr (verifyRoot_eq_error h)
  · rw [selectXY_both_or_neither (by rw [h1, h2]; rfl)] at h
    exact .inl (Except.error.inj h).symm

theorem notHostWritable_eq_not (r : FieldReg) : notHostWritable r = !r.hostWritable := by
  cases r <;> rfl

/-- R157, R161: a well-formed request raises only faults of its row, with exactly the destinations of its row. -/
theorem plan_raises {i : Instr} {s : State} {e : Raised} (hi : i.WellFormed) (h : plan i s = .error e) :
    e.1 ∈ mayRaise i ∧ e.2 = faultDests i := by
  cases i with
  | wrb b payload => cases h
  | wrf r payload =>
    have hr : notHostWritable r = false := by
      rw [notHostWritable_eq_not, Bool.not_eq_false']
      exact hi
    by_cases hP : P ≤ payload.toNat
    · obtain rfl : (.range, [r]) = e := by simpa [plan, hr, hP] using h
      exact ⟨.head _, rfl⟩
    · simp [plan, hr, hP] at h
  | rdf r => cases h
  | rds => cases h
  | dec b =>
    obtain ⟨-, rfl⟩ := by simpa [plan, bind_eq_error] using h
    cases b <;> exact ⟨.head _, rfl⟩
  | h2f =>
    obtain ⟨-, rfl⟩ | ⟨b0, -, -, rfl⟩ := by simpa [plan, bind_eq_error] using h
    · exact ⟨.head _, rfl⟩
    · exact ⟨.head _, rfl⟩
  | map src =>
    obtain ⟨-, rfl⟩ | ⟨u, -, c, hc, rfl⟩ := by simpa [plan, bind_eq_error] using h
    · exact ⟨.head _, rfl⟩
    · exact ⟨by simpa [mayRaise] using .inr (selectXY_eq_error hc), rfl⟩
  | sel =>
    obtain ⟨-, rfl⟩ | ⟨x1, -, ⟨-, rfl⟩ | ⟨x2, -, ⟨-, rfl⟩ | ⟨g1, -, ⟨-, rfl⟩ | ⟨g2, -, c, hc, rfl⟩⟩⟩⟩ := by
      simpa [plan, bind_eq_error] using h
    · exact ⟨.head _, rfl⟩
    · exact ⟨.head _, rfl⟩
    · exact ⟨.head _, rfl⟩
    · exact ⟨.head _, rfl⟩
    · exact ⟨by simpa [mayRaise] using .inr (selectXY_eq_error hc), rfl⟩

/-! ## The fault entry (R160) -/

/-- A request that takes `READY` to `FAULTED` raised the fault of its plan. -/
theorem Ran.faults {i : Instr} {s t : State} (h : Ran i s t) (hs : s.flt = false) (ht : t.flt = true) :
    ∃ e, plan i s = .error e ∧ FaultOf s t e.1.code e.2 := by
  cases h with
  | read n rsp hread => simp [hs] at ht
  | refused hf => simp [hs] at hf
  | completed ws _ hp => simp [hs] at ht
  | faulted c dests _ hp => exact ⟨_, hp, s.faultEntry_faultOf c dests⟩

/-- R151: an illegal request in `READY` is a fault without destinations. -/
theorem State.illegalRequest_faultOf {s : State} (hs : s.flt = false) : FaultOf s s.illegalRequest 1#4 [] := by
  rw [State.illegalRequest, State.ifReady_ready hs]
  exact s.faultEntry_faultOf .illegalReq []

/-- Settles O26: the plan's fault is one of the request's row, and the fault entry does with it what R160 says. -/
theorem faultEntryInvalidatesDestinations : Obligations.FaultEntryInvalidatesDestinations := by
  refine ⟨fun i s t hi hs h ht => ?_, fun s r rest e hs hp hd => ?_⟩
  · obtain ⟨e, hplan, hfault⟩ := (exec_ran h).faults hs ht
    obtain ⟨hcause, hdests⟩ := plan_raises hi hplan
    exact ⟨e.1, hcause, hdests ▸ hfault⟩
  · exact ⟨_, step_illegal hp hd, State.illegalRequest_faultOf hs⟩

/-! ## `FAULTED` (R163) -/

/-- The draw counter and the two sides of the port are no state of the block (R20). -/
theorem State.sameBlock_of_port (s : State) (n : Nat) (moves : List HostMove) (rsp : Option Response) :
    s.SameBlock { s with draws := n, pending := moves, response := rsp } :=
  ⟨rfl, rfl, rfl, rfl, rfl, rfl, rfl⟩

/-- R163: in `FAULTED` a request changes nothing of the block, and it is answered exactly if it is a legal read. -/
theorem step_faulted_request {s t : State} {r : Request} {rest : List HostMove} (hs : s.flt = true)
    (hp : s.pending = .request r :: rest) (h : step s = .next t) :
    s.SameBlock t ∧ ∃ rsp, t.response = some rsp ∧
      (rsp.ok = true ↔ ∃ i, decode r = .ok i ∧ isRead i = true) ∧ (rsp.ok = false → rsp.data = .none) := by
  by_cases hread : ∃ i, decode r = .ok i ∧ isRead i = true
  · obtain ⟨i, hd, hi⟩ := hread
    obtain rfl := Host.Outcome.next.inj ((step_instr hp hd).symm.trans h)
    obtain ⟨data, hrsp, -⟩ := execState_read_response hi { s with pending := rest }
    obtain ⟨n, rsp, heq⟩ := execState_read hi { s with pending := rest }
    exact ⟨heq ▸ s.sameBlock_of_port n rest rsp, _, hrsp, iff_of_true rfl ⟨i, hd, hi⟩, nofun⟩
  · have hrefused := step_refused hs hp fun i hd => Bool.eq_false_iff.mpr fun hi => hread ⟨i, hd, hi⟩
    obtain rfl := Host.Outcome.next.inj (hrefused.symm.trans h)
    exact ⟨s.sameBlock_of_port s.draws rest notOk, _, rfl, iff_of_false nofun hread, fun _ => rfl⟩

/-- R163: a step enters `FAULTED` by the fault entry of a request. -/
theorem step_enters_faulted {s t : State} (hs : s.flt = false) (h : step s = .next t) (ht : t.flt = true) :
    ∃ r rest code dests, s.pending = .request r :: rest ∧ FaultOf { s with pending := rest } t code dests := by
  obtain ⟨-, rfl⟩ | ⟨rest, -, rfl⟩ | ⟨r, rest, e, hp, -, rfl⟩ | ⟨r, rest, i, hp, -, hexec⟩ := step_cases h
  · simp [hs] at ht
  · simp at ht
  · exact ⟨r, rest, _, _, hp, State.illegalRequest_faultOf hs⟩
  · obtain ⟨e, -, hfault⟩ := (exec_ran hexec).faults hs ht
    exact ⟨r, rest, _, _, hp, hfault⟩

/-- R163: the answer of `RDF` does not look at `FLT`. -/
theorem execState_rdf_response_flt (reg : FieldReg) (s : State) (flt : Bool) :
    (execState (.rdf reg) { s with flt := flt }).response = (execState (.rdf reg) s).response := by
  rcases hr : s.vf.get reg with _ | _ <;> simp [execState, hr]

/-- Settles O13: a step from `FAULTED` is idle, the reset, or a request that changes nothing of the block. -/
theorem faultedIsLeftOnlyByReset : Obligations.FaultedIsLeftOnlyByReset := by
  refine ⟨fun s t hs h => ?_, fun s t => step_enters_faulted, fun reg s t t' h h' => ?_⟩
  · rcases hp : s.pending with _ | ⟨r | _, rest⟩
    · obtain rfl := Host.Outcome.next.inj ((step_idle hp).symm.trans h)
      exact .inr ⟨s.sameBlock_of_port s.draws s.pending s.response, nofun⟩
    · obtain ⟨hsame, hanswer⟩ := step_faulted_request hs hp h
      refine .inr ⟨hsame, fun r' rest' heq => ?_⟩
      cases heq
      exact hanswer
    · obtain rfl := Host.Outcome.next.inj ((step_reset hp).symm.trans h)
      exact .inl ⟨rest, rfl, rfl⟩
  · rw [execState_of_next h, execState_of_next h', execState_rdf_response_flt reg s true,
      execState_rdf_response_flt reg s false]

end Sys2Proof.Machine
end

section
/-! PROOFS for 70_reset_and_hazards.md: the reset move (R176, R177), `SEL` after `MAP` (R185) and the answer to every request
(R187). -/

namespace Sys2Proof.Machine

/-! ## Reset (R176, R177) -/

@[simp] theorem BlockFile.get_mk_self {α : Type} (a : α) (b : BlockIx) : (BlockFile.mk a a).get b = a := by
  cases b <;> rfl

/-- R176: the status word looks at nothing that the reset move keeps. -/
theorem statusWord_resetMove (s : State) : statusWord s.resetMove = 0x00000000#32 :=
  statusWord_reset

/-- R177: but for the draw counter, the reset move keeps of a state its configuration and the host's further moves. -/
theorem State.resetMove_with_draws (s : State) (n : Nat) :
    { s.resetMove with draws := n } = { State.reset with cfg := s.cfg, draws := n, pending := s.pending } := (rfl)

/-- Settles O15: the reset move leaves every valid bit 0, so nothing is a source and `RDF` answers a free value. -/
theorem resetMoveGivesTheResetState : Obligations.ResetMoveGivesTheResetState := by
  intro s rest hp
  have hvf (r : FieldReg) : ({ s with pending := rest } : State).resetMove.vf.get r = false := by simp
  have hvb (b : BlockIx) : ({ s with pending := rest } : State).resetMove.vb.get b = false := by simp
  exact ⟨_, step_reset hp, rfl, rfl, rfl, hvf, hvb, fun r => State.source_invalid (hvf r),
    fun b => State.sourceBlock_invalid (hvb b), statusWord_resetMove _, rfl, rfl,
    fun r => ⟨_, _, exec_rdf_invalid (hvf r), rfl⟩⟩

/-- Settles O16: what the reset move keeps is equal in both states. -/
theorem resetIsMemoryless : Obligations.ResetIsMemoryless := by
  intro s s' rest hp hp' hcfg
  refine ⟨_, _, step_reset hp, step_reset hp', ?_⟩
  rw [State.resetMove_with_draws, State.resetMove_with_draws, hcfg]

/-! ## `SEL` after `MAP` (R185) -/

/-- A completing `MAP` had a source `u`, reduced or not, and the selector's answer for it. -/
theorem map_completed_of_some_source {src : MapSrc} {s t : State} (hs : s.flt = false)
    (h : exec (.map src) s = .next t) (ht : t.flt = false) :
    ∃ u x y, mapSelect s.cfg u = .ok (x, y) ∧ t = mapped s (mapValues s.cfg u) u x y := by
  obtain ⟨ws, hp, rfl⟩ := (exec_ran h).completes rfl hs ht
  obtain ⟨u, -, x, y, hsel, rfl⟩ := by simpa [plan, bind_eq_ok] using hp
  exact ⟨u, x, y, hsel, s.commit_mappedWrites s.cfg u x y⟩

/-- The candidate registers `MAP` leaves are those of its selection, so `SEL` makes the same selection again. -/
theorem exec_sel_mapped {s : State} {u x y : Fq} (hs : s.flt = false) (h : mapSelect s.cfg u = .ok (x, y)) :
    exec .sel (mapped s (mapValues s.cfg u) u x y) =
      .next (selected (mapped s (mapValues s.cfg u) u x y) x y) :=
  exec_sel_ok (s := mapped s _ u x y) hs ⟨rfl, rfl⟩ ⟨rfl, rfl⟩ ⟨rfl, rfl⟩ ⟨rfl, rfl⟩ h

theorem eq_signFixup_or_eq_fneg_signFixup (u y : Fq) : y = signFixup u y ∨ y = fneg (signFixup u y) :=
  fsqr_eq_fsqr_iff.mp (fsqr_signFixup u y).symm

/-- Settles O44: `SEL` selects the same candidate and leaves its root without the fixup, which `MAP` had made. -/
theorem reselectionAfterMap : Obligations.ReselectionAfterMap := by
  intro src s t hs h ht
  obtain ⟨u, x, y, hsel, rfl⟩ := map_completed_of_some_source hs h ht
  have hy : (selected (mapped s (mapValues s.cfg u) u x y) x y).Holds .y y := ⟨rfl, rfl⟩
  refine ⟨_, signFixup u y, exec_sel_mapped hs hsel, rfl, rfl, mapped_holds_y .., ?_⟩
  obtain heq | heq := eq_signFixup_or_eq_fneg_signFixup u y
  · exact .inl (by rwa [← heq])
  · exact .inr (by rwa [← heq])

/-! ## Every request is answered (R187) -/

/-- Every instruction answers, in `READY` and in `FAULTED`. -/
theorem execState_answers (i : Instr) (s : State) : ∃ rsp, (execState i s).response = some rsp := by
  rcases hi : isRead i with _ | _
  · exact ⟨_, (execState_ran i s).response hi⟩
  · obtain ⟨data, hrsp, -⟩ := execState_read_response hi s
    exact ⟨_, hrsp⟩

/-- A request is taken from the host's moves and answered, whether its word is legal or not. -/
theorem step_answers_request {s : State} {r : Request} {rest : List HostMove} (hp : s.pending = .request r :: rest) :
    ∃ t, step s = .next t ∧ t.pending = rest ∧ ∃ rsp, t.response = some rsp := by
  rcases hd : decode r with e | i
  · refine ⟨_, step_illegal hp hd, ?_⟩
    obtain h | h := State.illegalRequest_cases { s with pending := rest } <;> simp [h]
  · exact ⟨_, step_instr hp hd, (execState_ran i _).pending, execState_answers i _⟩

/-- Settles O19: an idle step has no move to take, the reset move is no request, and a request is answered. -/
theorem everyRequestIsAnswered : Obligations.EveryRequestIsAnswered := by
  intro s
  rcases hp : s.pending with _ | ⟨r | _, rest⟩
  case nil => exact ⟨s, step_idle hp, hp, nofun⟩
  case cons.reset => exact ⟨_, step_reset hp, rfl, nofun⟩
  case cons.request =>
    obtain ⟨t, hstep, hrest, hrsp⟩ := step_answers_request hp
    exact ⟨t, hstep, hrest, fun _ _ _ => hrsp⟩

end Sys2Proof.Machine
end
